-- ==== Sys2Proof/Word.lean ====
section
/-! DEFINITION. The word types: a byte is 8 bits, an address 16 bits (spec 00_scope.md section 6, 20_memory.md R60, R63). -/

namespace Sys2Proof

/-- `Byte` of 00_scope.md section 6: unsigned 0..255; every bus transfer moves one (20_memory.md R63). -/
abbrev Byte := BitVec 8

/-- `Addr` of 00_scope.md section 6: unsigned 0..65535; address arithmetic wraps modulo 65536 (20_memory.md R60). -/
abbrev Addr := BitVec 16

end Sys2Proof
end

