-- ==== Sys2Proof/Machine/Bits.lean ====
section
/-! DEFINITION. Bit fields, byte order and sign extension: the helpers of the notation of spec 00_scope.md section 6. -/

namespace Sys2Proof

/-- `hi:lo` of 00_scope.md section 6: `(hi << 8) | lo` (30_encoding.md R103, 20_memory.md R61). -/
def wordOf (hi lo : Byte) : Addr := hi ++ lo

/-- `w[15:8]`. -/
def hiByte (w : Addr) : Byte := w.extractLsb' 8 8

/-- `w[7:0]`. -/
def loByte (w : Addr) : Byte := w.extractLsb' 0 8

/-- `zext_16` of 00_scope.md section 6: a zero-page operand as an address 0x0000..0x00FF (30_encoding.md R103). -/
def zext16 (b : Byte) : Addr := b.setWidth 16

/-- `sext_8` of 00_scope.md section 6, as a 16-bit number to add to PC (30_encoding.md R118). -/
def sext16 (b : Byte) : Addr := b.signExtend 16

/-- The byte with bit `n` alone set, `1 << n` (43_logic_shift.md R190, R191). -/
def bitMask (n : Nat) : Byte := 1#8 <<< n

end Sys2Proof
end

