-- ==== Sys2Proof/Syntax.lean ====
section
/-! DEFINITION. The instructions: one constructor per mnemonic of spec/opcode_table.json, its addressing mode
the operand argument (30_encoding.md R126). A row of the table is a constructor with one of its modes; which
modes a constructor has is `Instr.wellFormed` (WellFormed.lean). Operands are the operand bytes as the
instruction carries them, assembled as 30_encoding.md R103 says. -/

namespace Sys2Proof

/-- The sixteen addressing modes of 30_encoding.md R104 to R119. -/
inductive Mode where
  | imp | acc | imm | zp | zpx | zpy | abs | abx | aby | izx | izy | izp | ind | iax | rel | zprel
  deriving DecidableEq, Repr

/-- The modes that name a data byte in memory, with their operand (30_encoding.md R106 to R108, R110 to R115). -/
inductive MemMode where
  | zp  (z : Byte)
  | zpx (z : Byte)
  | zpy (z : Byte)
  | abs (w : Addr)
  | abx (w : Addr)
  | aby (w : Addr)
  | izx (z : Byte)
  | izy (z : Byte)
  | izp (z : Byte)
  deriving DecidableEq, Repr

/-- The operand of an instruction that reads one byte: the immediate byte (30_encoding.md R109) or a memory byte. -/
inductive Source where
  | imm (v : Byte)
  | mem (m : MemMode)
  deriving DecidableEq, Repr

/-- The operand of an instruction that modifies one byte: A (30_encoding.md R105) or a memory byte. -/
inductive Target where
  | acc
  | mem (m : MemMode)
  deriving DecidableEq, Repr

/-- The operand of JMP (30_encoding.md R110, R116, R117). -/
inductive JumpMode where
  | abs (w : Addr)
  | ind (w : Addr)
  | iax (w : Addr)
  deriving DecidableEq, Repr

/-- The reserved opcodes (30_encoding.md R127): the opcode byte, which tells them apart, and the operand bytes the
slot's mode reads. The immediate slot's operand byte is skipped without being read, so it is no operand. -/
inductive Reserved where
  | imp (op : Byte)
  | imm (op : Byte)
  | zp  (op : Byte) (z : Byte)
  | zpx (op : Byte) (z : Byte)
  | abs (op : Byte) (w : Addr)
  deriving DecidableEq, Repr

/-- The instructions. `off` is a relative offset byte, read as a signed number (30_encoding.md R118); `z` a zero-page
address (R106); `w` a 16-bit operand (R103). `nopReserved` is the table's `NOP*`. -/
inductive Instr where
  | lda (o : Source)
  | ldx (o : Source)
  | ldy (o : Source)
  | sta (m : MemMode)
  | stx (m : MemMode)
  | sty (m : MemMode)
  | stz (m : MemMode)
  | tax
  | tay
  | txa
  | tya
  | tsx
  | txs
  | pha
  | php
  | pla
  | plp
  | phx
  | phy
  | plx
  | ply
  | adc (o : Source)
  | sbc (o : Source)
  | cmp (o : Source)
  | cpx (o : Source)
  | cpy (o : Source)
  | and (o : Source)
  | ora (o : Source)
  | eor (o : Source)
  | bit (o : Source)
  | asl (t : Target)
  | lsr (t : Target)
  | rol (t : Target)
  | ror (t : Target)
  | trb (m : MemMode)
  | tsb (m : MemMode)
  | rmb0 (z : Byte)
  | rmb1 (z : Byte)
  | rmb2 (z : Byte)
  | rmb3 (z : Byte)
  | rmb4 (z : Byte)
  | rmb5 (z : Byte)
  | rmb6 (z : Byte)
  | rmb7 (z : Byte)
  | smb0 (z : Byte)
  | smb1 (z : Byte)
  | smb2 (z : Byte)
  | smb3 (z : Byte)
  | smb4 (z : Byte)
  | smb5 (z : Byte)
  | smb6 (z : Byte)
  | smb7 (z : Byte)
  | inc (t : Target)
  | dec (t : Target)
  | inx
  | dex
  | iny
  | dey
  | clc
  | sec
  | cli
  | sei
  | cld
  | sed
  | clv
  | jmp (j : JumpMode)
  | jsr (w : Addr)
  | rts
  | bpl (off : Byte)
  | bmi (off : Byte)
  | bvc (off : Byte)
  | bvs (off : Byte)
  | bcc (off : Byte)
  | bcs (off : Byte)
  | bne (off : Byte)
  | beq (off : Byte)
  | bra (off : Byte)
  | bbr0 (z off : Byte)
  | bbr1 (z off : Byte)
  | bbr2 (z off : Byte)
  | bbr3 (z off : Byte)
  | bbr4 (z off : Byte)
  | bbr5 (z off : Byte)
  | bbr6 (z off : Byte)
  | bbr7 (z off : Byte)
  | bbs0 (z off : Byte)
  | bbs1 (z off : Byte)
  | bbs2 (z off : Byte)
  | bbs3 (z off : Byte)
  | bbs4 (z off : Byte)
  | bbs5 (z off : Byte)
  | bbs6 (z off : Byte)
  | bbs7 (z off : Byte)
  | nop
  | nopReserved (r : Reserved)
  | brk
  | rti
  | wai
  | stp
  deriving DecidableEq, Repr

/-- The mode of a memory operand. -/
def MemMode.mode : MemMode → Mode
  | .zp _ => .zp
  | .zpx _ => .zpx
  | .zpy _ => .zpy
  | .abs _ => .abs
  | .abx _ => .abx
  | .aby _ => .aby
  | .izx _ => .izx
  | .izy _ => .izy
  | .izp _ => .izp

/-- The mode of a read operand. -/
def Source.mode : Source → Mode
  | .imm _ => .imm
  | .mem m => m.mode

/-- The mode of a modified operand. -/
def Target.mode : Target → Mode
  | .acc => .acc
  | .mem m => m.mode

/-- The mode of a jump operand. -/
def JumpMode.mode : JumpMode → Mode
  | .abs _ => .abs
  | .ind _ => .ind
  | .iax _ => .iax

end Sys2Proof
end

