-- ==== Sys2Proof/WellFormed.lean ====
section
/-! DEFINITION. Which operand forms each instruction has: the mode sets of 30_encoding.md R126 (a dash there is a
mode the instruction does not have) and the reserved opcodes of R127. Every other operand is checked by its type. -/

namespace Sys2Proof

/-- The nine modes of LDA, ADC, SBC, CMP, AND, ORA, EOR (30_encoding.md R126). -/
def aluModes : List Mode := [.imm, .zp, .zpx, .abs, .abx, .aby, .izx, .izy, .izp]

/-- The modes of ASL, LSR, ROL, ROR, INC, DEC (30_encoding.md R126). -/
def modifyModes : List Mode := [.acc, .zp, .zpx, .abs, .abx]

/-- The reserved one-byte opcodes (30_encoding.md R127): column 3, and column B but for 0xCB and 0xDB (WAI, STP). -/
def reservedImp : List Byte :=
  [0x03, 0x13, 0x23, 0x33, 0x43, 0x53, 0x63, 0x73, 0x83, 0x93, 0xA3, 0xB3, 0xC3, 0xD3, 0xE3, 0xF3] ++
  [0x0B, 0x1B, 0x2B, 0x3B, 0x4B, 0x5B, 0x6B, 0x7B, 0x8B, 0x9B, 0xAB, 0xBB, 0xEB, 0xFB]

/-- The reserved opcodes with an immediate slot (30_encoding.md R127). -/
def reservedImm : List Byte := [0x02, 0x22, 0x42, 0x62, 0x82, 0xC2, 0xE2]

/-- The reserved opcode with a zero-page slot (30_encoding.md R127). -/
def reservedZp : List Byte := [0x44]

/-- The reserved opcodes with a zero-page,X slot (30_encoding.md R127). -/
def reservedZpx : List Byte := [0x54, 0xD4, 0xF4]

/-- The reserved opcodes with an absolute slot (30_encoding.md R127). -/
def reservedAbs : List Byte := [0x5C, 0xDC, 0xFC]

/-- A reserved instruction's opcode is one of its slot's class (30_encoding.md R127). -/
def Reserved.wellFormed : Reserved → Bool
  | .imp op => reservedImp.contains op
  | .imm op => reservedImm.contains op
  | .zp op _ => reservedZp.contains op
  | .zpx op _ => reservedZpx.contains op
  | .abs op _ => reservedAbs.contains op

/-- The instruction's operand has a mode that 30_encoding.md R126 gives the instruction. -/
def Instr.wellFormed : Instr → Bool
  | .lda o | .adc o | .sbc o | .cmp o | .and o | .ora o | .eor o => aluModes.contains o.mode
  | .ldx o => [Mode.imm, .zp, .zpy, .abs, .aby].contains o.mode
  | .ldy o => [Mode.imm, .zp, .zpx, .abs, .abx].contains o.mode
  | .cpx o | .cpy o => [Mode.imm, .zp, .abs].contains o.mode
  | .bit o => [Mode.imm, .zp, .zpx, .abs, .abx].contains o.mode
  | .sta m => [Mode.zp, .zpx, .abs, .abx, .aby, .izx, .izy, .izp].contains m.mode
  | .stx m => [Mode.zp, .zpy, .abs].contains m.mode
  | .sty m => [Mode.zp, .zpx, .abs].contains m.mode
  | .stz m => [Mode.zp, .zpx, .abs, .abx].contains m.mode
  | .asl t | .lsr t | .rol t | .ror t | .inc t | .dec t => modifyModes.contains t.mode
  | .trb m | .tsb m => [Mode.zp, .abs].contains m.mode
  | .nopReserved r => r.wellFormed
  | .tax | .tay | .txa | .tya | .tsx | .txs => true
  | .pha | .php | .pla | .plp | .phx | .phy | .plx | .ply => true
  | .rmb0 _ | .rmb1 _ | .rmb2 _ | .rmb3 _ | .rmb4 _ | .rmb5 _ | .rmb6 _ | .rmb7 _ => true
  | .smb0 _ | .smb1 _ | .smb2 _ | .smb3 _ | .smb4 _ | .smb5 _ | .smb6 _ | .smb7 _ => true
  | .inx | .dex | .iny | .dey | .clc | .sec | .cli | .sei | .cld | .sed | .clv => true
  | .jmp _ | .jsr _ | .rts => true
  | .bpl _ | .bmi _ | .bvc _ | .bvs _ | .bcc _ | .bcs _ | .bne _ | .beq _ | .bra _ => true
  | .bbr0 _ _ | .bbr1 _ _ | .bbr2 _ _ | .bbr3 _ _ | .bbr4 _ _ | .bbr5 _ _ | .bbr6 _ _ | .bbr7 _ _ => true
  | .bbs0 _ _ | .bbs1 _ _ | .bbs2 _ _ | .bbs3 _ _ | .bbs4 _ _ | .bbs5 _ _ | .bbs6 _ _ | .bbs7 _ _ => true
  | .nop | .brk | .rti | .wai | .stp => true

end Sys2Proof
end

