-- ==== Sys2Proof/Decode.lean ====
section
/-! DEFINITION. Decoding, a lookup of the opcode byte in the map of 30_encoding.md R125, and encoding, from the
table by mnemonic R126 and R127. The two are written from different tables of the spec, so that the round trip
says the tables agree. The opcode bytes, modes and cycle counts are the spec's general knowledge G1 to G4. -/

namespace Sys2Proof

/-- What one opcode byte stands for: its instruction, given the operand bytes its mode reads (30_encoding.md R101). -/
inductive OpcodeForm where
  /-- formats F1 and F1b: no operand byte -/
  | f1 (i : Instr)
  /-- one operand byte -/
  | f2 (mk : Byte → Instr)
  /-- one operand byte that is skipped and not read: the reserved immediate slot (R127) -/
  | f2Skip (i : Instr)
  /-- two operand bytes, in increasing address order -/
  | f3 (mk : Byte → Byte → Instr)

/-- One cell of the map of 30_encoding.md R125: form and `base_cycles`. -/
structure OpcodeEntry where
  form   : OpcodeForm
  cycles : Nat

/-- The number of operand bytes after the opcode: "Each consumes 0, 1, or 2 bytes after the opcode" (30_encoding.md R100). -/
def OpcodeForm.operandBytes : OpcodeForm → Nat
  | .f1 _ => 0
  | .f2 _ | .f2Skip _ => 1
  | .f3 _ => 2

namespace OpcodeMap

/-- A read instruction's constructor over memory modes. -/
def src (f : Source → Instr) (m : MemMode) : Instr := f (.mem m)
/-- A modifying instruction's constructor over memory modes. -/
def tgt (f : Target → Instr) (m : MemMode) : Instr := f (.mem m)

/-- A cell of mode imp (30_encoding.md R104). -/
def imp (i : Instr) (n : Nat) : OpcodeEntry := ⟨.f1 i, n⟩
/-- A cell of mode acc (30_encoding.md R105). -/
def acc (f : Target → Instr) (n : Nat) : OpcodeEntry := ⟨.f1 (f .acc), n⟩
/-- A cell of mode imm (30_encoding.md R109). -/
def imm (f : Source → Instr) (n : Nat) : OpcodeEntry := ⟨.f2 fun b => f (.imm b), n⟩
/-- A cell of mode zp (30_encoding.md R106). -/
def zp (f : MemMode → Instr) (n : Nat) : OpcodeEntry := ⟨.f2 fun b => f (.zp b), n⟩
/-- A cell of mode zpx (30_encoding.md R107). -/
def zpx (f : MemMode → Instr) (n : Nat) : OpcodeEntry := ⟨.f2 fun b => f (.zpx b), n⟩
/-- A cell of mode zpy (30_encoding.md R108). -/
def zpy (f : MemMode → Instr) (n : Nat) : OpcodeEntry := ⟨.f2 fun b => f (.zpy b), n⟩
/-- A cell of mode abs: low byte first (30_encoding.md R110). -/
def abs (f : MemMode → Instr) (n : Nat) : OpcodeEntry := ⟨.f3 fun l h => f (.abs (wordOf h l)), n⟩
/-- A cell of mode abx (30_encoding.md R111). -/
def abx (f : MemMode → Instr) (n : Nat) : OpcodeEntry := ⟨.f3 fun l h => f (.abx (wordOf h l)), n⟩
/-- A cell of mode aby (30_encoding.md R112). -/
def aby (f : MemMode → Instr) (n : Nat) : OpcodeEntry := ⟨.f3 fun l h => f (.aby (wordOf h l)), n⟩
/-- A cell of mode izx (30_encoding.md R113). -/
def izx (f : MemMode → Instr) (n : Nat) : OpcodeEntry := ⟨.f2 fun b => f (.izx b), n⟩
/-- A cell of mode izy (30_encoding.md R114). -/
def izy (f : MemMode → Instr) (n : Nat) : OpcodeEntry := ⟨.f2 fun b => f (.izy b), n⟩
/-- A cell of mode izp (30_encoding.md R115). -/
def izp (f : MemMode → Instr) (n : Nat) : OpcodeEntry := ⟨.f2 fun b => f (.izp b), n⟩
/-- JMP abs (30_encoding.md R110). -/
def jmpAbs (n : Nat) : OpcodeEntry := ⟨.f3 fun l h => .jmp (.abs (wordOf h l)), n⟩
/-- JMP (abs) (30_encoding.md R116). -/
def jmpInd (n : Nat) : OpcodeEntry := ⟨.f3 fun l h => .jmp (.ind (wordOf h l)), n⟩
/-- JMP (abs,X) (30_encoding.md R117). -/
def jmpIax (n : Nat) : OpcodeEntry := ⟨.f3 fun l h => .jmp (.iax (wordOf h l)), n⟩
/-- JSR abs (30_encoding.md R110). -/
def jsrAbs (n : Nat) : OpcodeEntry := ⟨.f3 fun l h => .jsr (wordOf h l), n⟩
/-- A cell of mode rel (30_encoding.md R118). -/
def rel (f : Byte → Instr) (n : Nat) : OpcodeEntry := ⟨.f2 f, n⟩
/-- A cell of mode zp of RMBn and SMBn (30_encoding.md R106). -/
def bitZp (f : Byte → Instr) (n : Nat) : OpcodeEntry := ⟨.f2 f, n⟩
/-- A cell of mode zprel: zero-page address first, then the offset (30_encoding.md R119). -/
def zprel (f : Byte → Byte → Instr) (n : Nat) : OpcodeEntry := ⟨.f3 f, n⟩
/-- A reserved one-byte cell (30_encoding.md R127). -/
def nopImp (op : Byte) (n : Nat) : OpcodeEntry := ⟨.f1 (.nopReserved (.imp op)), n⟩
/-- A reserved immediate cell: "The immediate form reads nothing beyond the opcode" (30_encoding.md R127). -/
def nopImm (op : Byte) (n : Nat) : OpcodeEntry := ⟨.f2Skip (.nopReserved (.imm op)), n⟩
/-- A reserved zero-page cell (30_encoding.md R127). -/
def nopZp (op : Byte) (n : Nat) : OpcodeEntry := ⟨.f2 fun b => .nopReserved (.zp op b), n⟩
/-- A reserved zero-page,X cell (30_encoding.md R127). -/
def nopZpx (op : Byte) (n : Nat) : OpcodeEntry := ⟨.f2 fun b => .nopReserved (.zpx op b), n⟩
/-- A reserved absolute cell (30_encoding.md R127). -/
def nopAbs (op : Byte) (n : Nat) : OpcodeEntry := ⟨.f3 fun l h => .nopReserved (.abs op (wordOf h l)), n⟩

/-- Row 0x of the map (30_encoding.md R125). -/
def row0 : List OpcodeEntry :=
  [imp .brk 7, izx (src .ora) 6, nopImm 0x02 2, nopImp 0x03 1,
   zp .tsb 5, zp (src .ora) 3, zp (tgt .asl) 5, bitZp .rmb0 5,
   imp .php 3, imm .ora 2, acc .asl 2, nopImp 0x0B 1,
   abs .tsb 6, abs (src .ora) 4, abs (tgt .asl) 6, zprel .bbr0 5]

/-- Row 1x of the map (30_encoding.md R125). -/
def row1 : List OpcodeEntry :=
  [rel .bpl 2, izy (src .ora) 5, izp (src .ora) 5, nopImp 0x13 1,
   zp .trb 5, zpx (src .ora) 4, zpx (tgt .asl) 6, bitZp .rmb1 5,
   imp .clc 2, aby (src .ora) 4, acc .inc 2, nopImp 0x1B 1,
   abs .trb 6, abx (src .ora) 4, abx (tgt .asl) 6, zprel .bbr1 5]

/-- Row 2x of the map (30_encoding.md R125). -/
def row2 : List OpcodeEntry :=
  [jsrAbs 6, izx (src .and) 6, nopImm 0x22 2, nopImp 0x23 1,
   zp (src .bit) 3, zp (src .and) 3, zp (tgt .rol) 5, bitZp .rmb2 5,
   imp .plp 4, imm .and 2, acc .rol 2, nopImp 0x2B 1,
   abs (src .bit) 4, abs (src .and) 4, abs (tgt .rol) 6, zprel .bbr2 5]

/-- Row 3x of the map (30_encoding.md R125). -/
def row3 : List OpcodeEntry :=
  [rel .bmi 2, izy (src .and) 5, izp (src .and) 5, nopImp 0x33 1,
   zpx (src .bit) 4, zpx (src .and) 4, zpx (tgt .rol) 6, bitZp .rmb3 5,
   imp .sec 2, aby (src .and) 4, acc .dec 2, nopImp 0x3B 1,
   abx (src .bit) 4, abx (src .and) 4, abx (tgt .rol) 6, zprel .bbr3 5]

/-- Row 4x of the map (30_encoding.md R125). -/
def row4 : List OpcodeEntry :=
  [imp .rti 6, izx (src .eor) 6, nopImm 0x42 2, nopImp 0x43 1,
   nopZp 0x44 3, zp (src .eor) 3, zp (tgt .lsr) 5, bitZp .rmb4 5,
   imp .pha 3, imm .eor 2, acc .lsr 2, nopImp 0x4B 1,
   jmpAbs 3, abs (src .eor) 4, abs (tgt .lsr) 6, zprel .bbr4 5]

/-- Row 5x of the map (30_encoding.md R125). -/
def row5 : List OpcodeEntry :=
  [rel .bvc 2, izy (src .eor) 5, izp (src .eor) 5, nopImp 0x53 1,
   nopZpx 0x54 4, zpx (src .eor) 4, zpx (tgt .lsr) 6, bitZp .rmb5 5,
   imp .cli 2, aby (src .eor) 4, imp .phy 3, nopImp 0x5B 1,
   nopAbs 0x5C 8, abx (src .eor) 4, abx (tgt .lsr) 6, zprel .bbr5 5]

/-- Row 6x of the map (30_encoding.md R125). -/
def row6 : List OpcodeEntry :=
  [imp .rts 6, izx (src .adc) 6, nopImm 0x62 2, nopImp 0x63 1,
   zp .stz 3, zp (src .adc) 3, zp (tgt .ror) 5, bitZp .rmb6 5,
   imp .pla 4, imm .adc 2, acc .ror 2, nopImp 0x6B 1,
   jmpInd 6, abs (src .adc) 4, abs (tgt .ror) 6, zprel .bbr6 5]

/-- Row 7x of the map (30_encoding.md R125). -/
def row7 : List OpcodeEntry :=
  [rel .bvs 2, izy (src .adc) 5, izp (src .adc) 5, nopImp 0x73 1,
   zpx .stz 4, zpx (src .adc) 4, zpx (tgt .ror) 6, bitZp .rmb7 5,
   imp .sei 2, aby (src .adc) 4, imp .ply 4, nopImp 0x7B 1,
   jmpIax 6, abx (src .adc) 4, abx (tgt .ror) 6, zprel .bbr7 5]

/-- Row 8x of the map (30_encoding.md R125). -/
def row8 : List OpcodeEntry :=
  [rel .bra 3, izx .sta 6, nopImm 0x82 2, nopImp 0x83 1,
   zp .sty 3, zp .sta 3, zp .stx 3, bitZp .smb0 5,
   imp .dey 2, imm .bit 2, imp .txa 2, nopImp 0x8B 1,
   abs .sty 4, abs .sta 4, abs .stx 4, zprel .bbs0 5]

/-- Row 9x of the map (30_encoding.md R125). -/
def row9 : List OpcodeEntry :=
  [rel .bcc 2, izy .sta 6, izp .sta 5, nopImp 0x93 1,
   zpx .sty 4, zpx .sta 4, zpy .stx 4, bitZp .smb1 5,
   imp .tya 2, aby .sta 5, imp .txs 2, nopImp 0x9B 1,
   abs .stz 4, abx .sta 5, abx .stz 5, zprel .bbs1 5]

/-- Row Ax of the map (30_encoding.md R125). -/
def rowA : List OpcodeEntry :=
  [imm .ldy 2, izx (src .lda) 6, imm .ldx 2, nopImp 0xA3 1,
   zp (src .ldy) 3, zp (src .lda) 3, zp (src .ldx) 3, bitZp .smb2 5,
   imp .tay 2, imm .lda 2, imp .tax 2, nopImp 0xAB 1,
   abs (src .ldy) 4, abs (src .lda) 4, abs (src .ldx) 4, zprel .bbs2 5]

/-- Row Bx of the map (30_encoding.md R125). -/
def rowB : List OpcodeEntry :=
  [rel .bcs 2, izy (src .lda) 5, izp (src .lda) 5, nopImp 0xB3 1,
   zpx (src .ldy) 4, zpx (src .lda) 4, zpy (src .ldx) 4, bitZp .smb3 5,
   imp .clv 2, aby (src .lda) 4, imp .tsx 2, nopImp 0xBB 1,
   abx (src .ldy) 4, abx (src .lda) 4, aby (src .ldx) 4, zprel .bbs3 5]

/-- Row Cx of the map (30_encoding.md R125). -/
def rowC : List OpcodeEntry :=
  [imm .cpy 2, izx (src .cmp) 6, nopImm 0xC2 2, nopImp 0xC3 1,
   zp (src .cpy) 3, zp (src .cmp) 3, zp (tgt .dec) 5, bitZp .smb4 5,
   imp .iny 2, imm .cmp 2, imp .dex 2, imp .wai 3,
   abs (src .cpy) 4, abs (src .cmp) 4, abs (tgt .dec) 6, zprel .bbs4 5]

/-- Row Dx of the map (30_encoding.md R125). -/
def rowD : List OpcodeEntry :=
  [rel .bne 2, izy (src .cmp) 5, izp (src .cmp) 5, nopImp 0xD3 1,
   nopZpx 0xD4 4, zpx (src .cmp) 4, zpx (tgt .dec) 6, bitZp .smb5 5,
   imp .cld 2, aby (src .cmp) 4, imp .phx 3, imp .stp 3,
   nopAbs 0xDC 4, abx (src .cmp) 4, abx (tgt .dec) 7, zprel .bbs5 5]

/-- Row Ex of the map (30_encoding.md R125). -/
def rowE : List OpcodeEntry :=
  [imm .cpx 2, izx (src .sbc) 6, nopImm 0xE2 2, nopImp 0xE3 1,
   zp (src .cpx) 3, zp (src .sbc) 3, zp (tgt .inc) 5, bitZp .smb6 5,
   imp .inx 2, imm .sbc 2, imp .nop 2, nopImp 0xEB 1,
   abs (src .cpx) 4, abs (src .sbc) 4, abs (tgt .inc) 6, zprel .bbs6 5]

/-- Row Fx of the map (30_encoding.md R125). -/
def rowF : List OpcodeEntry :=
  [rel .beq 2, izy (src .sbc) 5, izp (src .sbc) 5, nopImp 0xF3 1,
   nopZpx 0xF4 4, zpx (src .sbc) 4, zpx (tgt .inc) 6, bitZp .smb7 5,
   imp .sed 2, aby (src .sbc) 4, imp .plx 4, nopImp 0xFB 1,
   nopAbs 0xFC 4, abx (src .sbc) 4, abx (tgt .inc) 7, zprel .bbs7 5]

/-- The whole map, row = high nibble, column = low nibble (30_encoding.md R125). -/
def rows : List (List OpcodeEntry) :=
  [row0, row1, row2, row3, row4, row5, row6, row7, row8, row9, rowA, rowB, rowC, rowD, rowE, rowF]

end OpcodeMap

/-- `OPCODE_TABLE[opcode]` (30_encoding.md R102, R125): total, since the map has a cell for each of the 256 bytes (R128). -/
def opcodeEntry (op : Byte) : OpcodeEntry :=
  (OpcodeMap.rows.getD (op.toNat / 16) []).getD (op.toNat % 16) (OpcodeMap.imp .nop 1)

/-- Why a list of bytes holds no whole instruction. No opcode is illegal (30_encoding.md R128); a list can only be too short. -/
inductive DecodeError where
  | noOpcode
  | missingOperand (op : Byte)
  deriving DecidableEq, Repr

/-- The instruction at the head of a list of bytes, and the bytes after it (30_encoding.md R100 to R103). -/
def decode : List Byte → Except DecodeError (Instr × List Byte)
  | [] => .error .noOpcode
  | op :: rest =>
    match (opcodeEntry op).form, rest with
    | .f1 i, r => .ok (i, r)
    | .f2 mk, b :: r => .ok (mk b, r)
    | .f2Skip i, _ :: r => .ok (i, r)
    | .f3 mk, b1 :: b2 :: r => .ok (mk b1 b2, r)
    | _, _ => .error (.missingOperand op)

/-- The operand bytes of a memory mode, low byte first (30_encoding.md R101, R103). -/
def MemMode.bytes : MemMode → List Byte
  | .zp z | .zpx z | .zpy z | .izx z | .izy z | .izp z => [z]
  | .abs w | .abx w | .aby w => [loByte w, hiByte w]

/-- The operand bytes of a read operand. -/
def Source.bytes : Source → List Byte
  | .imm v => [v]
  | .mem m => m.bytes

/-- The operand bytes of a modified operand. -/
def Target.bytes : Target → List Byte
  | .acc => []
  | .mem m => m.bytes

/-- The operand bytes of a jump operand. -/
def JumpMode.bytes : JumpMode → List Byte
  | .abs w | .ind w | .iax w => [loByte w, hiByte w]

/-- The opcode byte of a reserved instruction. -/
def Reserved.opcode : Reserved → Byte
  | .imp op | .imm op | .zp op _ | .zpx op _ | .abs op _ => op

/-- The operand bytes of a reserved instruction; the skipped byte of the immediate slot is written 0 (30_encoding.md R127). -/
def Reserved.bytes : Reserved → List Byte
  | .imp _ => []
  | .imm _ => [0]
  | .zp _ z | .zpx _ z => [z]
  | .abs _ w => [loByte w, hiByte w]

/-- The opcode byte of an instruction in its operand's mode, none where 30_encoding.md R126 has a dash. -/
def Instr.opcode : Instr → Option Byte
  | .lda o => [(Mode.imm, 0xA9), (Mode.zp, 0xA5), (Mode.zpx, 0xB5), (Mode.abs, 0xAD), (Mode.abx, 0xBD), (Mode.aby, 0xB9), (Mode.izx, 0xA1), (Mode.izy, 0xB1), (Mode.izp, 0xB2)].lookup o.mode
  | .ldx o => [(Mode.imm, 0xA2), (Mode.zp, 0xA6), (Mode.zpy, 0xB6), (Mode.abs, 0xAE), (Mode.aby, 0xBE)].lookup o.mode
  | .ldy o => [(Mode.imm, 0xA0), (Mode.zp, 0xA4), (Mode.zpx, 0xB4), (Mode.abs, 0xAC), (Mode.abx, 0xBC)].lookup o.mode
  | .sta m => [(Mode.zp, 0x85), (Mode.zpx, 0x95), (Mode.abs, 0x8D), (Mode.abx, 0x9D), (Mode.aby, 0x99), (Mode.izx, 0x81), (Mode.izy, 0x91), (Mode.izp, 0x92)].lookup m.mode
  | .stx m => [(Mode.zp, 0x86), (Mode.zpy, 0x96), (Mode.abs, 0x8E)].lookup m.mode
  | .sty m => [(Mode.zp, 0x84), (Mode.zpx, 0x94), (Mode.abs, 0x8C)].lookup m.mode
  | .stz m => [(Mode.zp, 0x64), (Mode.zpx, 0x74), (Mode.abs, 0x9C), (Mode.abx, 0x9E)].lookup m.mode
  | .adc o => [(Mode.imm, 0x69), (Mode.zp, 0x65), (Mode.zpx, 0x75), (Mode.abs, 0x6D), (Mode.abx, 0x7D), (Mode.aby, 0x79), (Mode.izx, 0x61), (Mode.izy, 0x71), (Mode.izp, 0x72)].lookup o.mode
  | .sbc o => [(Mode.imm, 0xE9), (Mode.zp, 0xE5), (Mode.zpx, 0xF5), (Mode.abs, 0xED), (Mode.abx, 0xFD), (Mode.aby, 0xF9), (Mode.izx, 0xE1), (Mode.izy, 0xF1), (Mode.izp, 0xF2)].lookup o.mode
  | .cmp o => [(Mode.imm, 0xC9), (Mode.zp, 0xC5), (Mode.zpx, 0xD5), (Mode.abs, 0xCD), (Mode.abx, 0xDD), (Mode.aby, 0xD9), (Mode.izx, 0xC1), (Mode.izy, 0xD1), (Mode.izp, 0xD2)].lookup o.mode
  | .cpx o => [(Mode.imm, 0xE0), (Mode.zp, 0xE4), (Mode.abs, 0xEC)].lookup o.mode
  | .cpy o => [(Mode.imm, 0xC0), (Mode.zp, 0xC4), (Mode.abs, 0xCC)].lookup o.mode
  | .and o => [(Mode.imm, 0x29), (Mode.zp, 0x25), (Mode.zpx, 0x35), (Mode.abs, 0x2D), (Mode.abx, 0x3D), (Mode.aby, 0x39), (Mode.izx, 0x21), (Mode.izy, 0x31), (Mode.izp, 0x32)].lookup o.mode
  | .ora o => [(Mode.imm, 0x09), (Mode.zp, 0x05), (Mode.zpx, 0x15), (Mode.abs, 0x0D), (Mode.abx, 0x1D), (Mode.aby, 0x19), (Mode.izx, 0x01), (Mode.izy, 0x11), (Mode.izp, 0x12)].lookup o.mode
  | .eor o => [(Mode.imm, 0x49), (Mode.zp, 0x45), (Mode.zpx, 0x55), (Mode.abs, 0x4D), (Mode.abx, 0x5D), (Mode.aby, 0x59), (Mode.izx, 0x41), (Mode.izy, 0x51), (Mode.izp, 0x52)].lookup o.mode
  | .bit o => [(Mode.imm, 0x89), (Mode.zp, 0x24), (Mode.zpx, 0x34), (Mode.abs, 0x2C), (Mode.abx, 0x3C)].lookup o.mode
  | .asl t => [(Mode.acc, 0x0A), (Mode.zp, 0x06), (Mode.zpx, 0x16), (Mode.abs, 0x0E), (Mode.abx, 0x1E)].lookup t.mode
  | .lsr t => [(Mode.acc, 0x4A), (Mode.zp, 0x46), (Mode.zpx, 0x56), (Mode.abs, 0x4E), (Mode.abx, 0x5E)].lookup t.mode
  | .rol t => [(Mode.acc, 0x2A), (Mode.zp, 0x26), (Mode.zpx, 0x36), (Mode.abs, 0x2E), (Mode.abx, 0x3E)].lookup t.mode
  | .ror t => [(Mode.acc, 0x6A), (Mode.zp, 0x66), (Mode.zpx, 0x76), (Mode.abs, 0x6E), (Mode.abx, 0x7E)].lookup t.mode
  | .trb m => [(Mode.zp, 0x14), (Mode.abs, 0x1C)].lookup m.mode
  | .tsb m => [(Mode.zp, 0x04), (Mode.abs, 0x0C)].lookup m.mode
  | .inc t => [(Mode.acc, 0x1A), (Mode.zp, 0xE6), (Mode.zpx, 0xF6), (Mode.abs, 0xEE), (Mode.abx, 0xFE)].lookup t.mode
  | .dec t => [(Mode.acc, 0x3A), (Mode.zp, 0xC6), (Mode.zpx, 0xD6), (Mode.abs, 0xCE), (Mode.abx, 0xDE)].lookup t.mode
  | .jmp j => [(Mode.abs, 0x4C), (Mode.ind, 0x6C), (Mode.iax, 0x7C)].lookup j.mode
  | .nopReserved r => if r.wellFormed then some r.opcode else none
  | .tax => some 0xAA
  | .tay => some 0xA8
  | .txa => some 0x8A
  | .tya => some 0x98
  | .tsx => some 0xBA
  | .txs => some 0x9A
  | .pha => some 0x48
  | .php => some 0x08
  | .pla => some 0x68
  | .plp => some 0x28
  | .phx => some 0xDA
  | .phy => some 0x5A
  | .plx => some 0xFA
  | .ply => some 0x7A
  | .rmb0 _ => some 0x07
  | .rmb1 _ => some 0x17
  | .rmb2 _ => some 0x27
  | .rmb3 _ => some 0x37
  | .rmb4 _ => some 0x47
  | .rmb5 _ => some 0x57
  | .rmb6 _ => some 0x67
  | .rmb7 _ => some 0x77
  | .smb0 _ => some 0x87
  | .smb1 _ => some 0x97
  | .smb2 _ => some 0xA7
  | .smb3 _ => some 0xB7
  | .smb4 _ => some 0xC7
  | .smb5 _ => some 0xD7
  | .smb6 _ => some 0xE7
  | .smb7 _ => some 0xF7
  | .inx => some 0xE8
  | .dex => some 0xCA
  | .iny => some 0xC8
  | .dey => some 0x88
  | .clc => some 0x18
  | .sec => some 0x38
  | .cli => some 0x58
  | .sei => some 0x78
  | .cld => some 0xD8
  | .sed => some 0xF8
  | .clv => some 0xB8
  | .jsr _ => some 0x20
  | .rts => some 0x60
  | .bpl _ => some 0x10
  | .bmi _ => some 0x30
  | .bvc _ => some 0x50
  | .bvs _ => some 0x70
  | .bcc _ => some 0x90
  | .bcs _ => some 0xB0
  | .bne _ => some 0xD0
  | .beq _ => some 0xF0
  | .bra _ => some 0x80
  | .bbr0 _ _ => some 0x0F
  | .bbr1 _ _ => some 0x1F
  | .bbr2 _ _ => some 0x2F
  | .bbr3 _ _ => some 0x3F
  | .bbr4 _ _ => some 0x4F
  | .bbr5 _ _ => some 0x5F
  | .bbr6 _ _ => some 0x6F
  | .bbr7 _ _ => some 0x7F
  | .bbs0 _ _ => some 0x8F
  | .bbs1 _ _ => some 0x9F
  | .bbs2 _ _ => some 0xAF
  | .bbs3 _ _ => some 0xBF
  | .bbs4 _ _ => some 0xCF
  | .bbs5 _ _ => some 0xDF
  | .bbs6 _ _ => some 0xEF
  | .bbs7 _ _ => some 0xFF
  | .nop => some 0xEA
  | .brk => some 0x00
  | .rti => some 0x40
  | .wai => some 0xCB
  | .stp => some 0xDB

/-- The operand bytes of an instruction (30_encoding.md R101). -/
def Instr.operands : Instr → List Byte
  | .lda o | .ldx o | .ldy o | .adc o | .sbc o | .cmp o | .cpx o | .cpy o
  | .and o | .ora o | .eor o | .bit o => o.bytes
  | .sta m | .stx m | .sty m | .stz m | .trb m | .tsb m => m.bytes
  | .asl t | .lsr t | .rol t | .ror t | .inc t | .dec t => t.bytes
  | .jmp j => j.bytes
  | .jsr w => [loByte w, hiByte w]
  | .rmb0 z | .rmb1 z | .rmb2 z | .rmb3 z | .rmb4 z | .rmb5 z | .rmb6 z | .rmb7 z
  | .smb0 z | .smb1 z | .smb2 z | .smb3 z | .smb4 z | .smb5 z | .smb6 z | .smb7 z => [z]
  | .bpl off | .bmi off | .bvc off | .bvs off | .bcc off | .bcs off | .bne off | .beq off
  | .bra off => [off]
  | .bbr0 z off | .bbr1 z off | .bbr2 z off | .bbr3 z off | .bbr4 z off | .bbr5 z off | .bbr6 z off | .bbr7 z off
  | .bbs0 z off | .bbs1 z off | .bbs2 z off | .bbs3 z off | .bbs4 z off | .bbs5 z off | .bbs6 z off | .bbs7 z off => [z, off]
  | .nopReserved r => r.bytes
  | .tax | .tay | .txa | .tya | .tsx | .txs | .pha | .php
  | .pla | .plp | .phx | .phy | .plx | .ply | .inx | .dex
  | .iny | .dey | .clc | .sec | .cli | .sei | .cld | .sed
  | .clv | .rts | .nop | .brk | .rti | .wai | .stp => []

/-- The bytes of an instruction in increasing address order (30_encoding.md R100); empty for an instruction that is
not well formed. -/
def encode (i : Instr) : List Byte :=
  match i.opcode with
  | some op => op :: i.operands
  | none => []

/-- The declared cycle count `base_cycles` of an instruction (00_scope.md R6, 30_encoding.md R125), through its opcode. -/
def Instr.cycles (i : Instr) : Nat :=
  match i.opcode with
  | some op => (opcodeEntry op).cycles
  | none => 0

/-- The length in bytes, opcode included (30_encoding.md R100). -/
def Instr.length (i : Instr) : Nat := 1 + i.operands.length

/-- An opcode-table word as bytes: bits 7..0 of `w` are the first byte; bits from `nbits` up are 0; three bytes, the
longest instruction. -/
def wordBytes (nbits w : Nat) : List Byte :=
  [BitVec.ofNat 8 (w % 2 ^ nbits), BitVec.ofNat 8 ((w % 2 ^ nbits) / 256), BitVec.ofNat 8 ((w % 2 ^ nbits) / 65536)]

/-- The instruction the decoder reads from an opcode-table word. -/
def decodeTableWord (nbits w : Nat) : Option Instr :=
  match decode (wordBytes nbits w) with
  | .ok (i, _) => some i
  | .error _ => none

end Sys2Proof
end

