-- ==== Sys2Proof/Machine/DeviceState.lean ====
section
/-! DEFINITION. The registers of the VIA and the ACIA, and the host's actions, as plain data
(spec 10_state.md R32, R33, R38). -/

namespace Sys2Proof.Machine

/-- The VIA's state (10_state.md R32). "IER bit 7 is not stored", so IER is 7 bits; IFR bit 7, the summary, is. -/
structure Via where
  orb  : Byte
  ora  : Byte
  ddrb : Byte
  ddra : Byte
  t1c  : BitVec 16
  t1lL : Byte
  t1lH : Byte
  t2c  : BitVec 16
  t2lL : Byte
  t2lH : Byte
  sr   : Byte
  acr  : Byte
  pcr  : Byte
  ifr  : Byte
  ier  : BitVec 7
  deriving DecidableEq, Repr

/-- The ACIA's state (10_state.md R33), the bytes the host has supplied since the last tick (60_exceptions.md R329)
and the bytes transmitted, in order (10_state.md R37, 60_exceptions.md R322). `dataLatch` is the "data latch (unused
for TX path)" of R33, which no rule reads or writes. -/
structure Acia where
  status    : Byte
  command   : Byte
  control   : Byte
  dataLatch : Byte
  rxFifo    : List Byte
  incoming  : List Byte
  txOut     : List Byte
  deriving DecidableEq, Repr

/-- The host's actions, each between two cycles (10_state.md R38). `high` is the NMI line's level; `images` are the ROM
images with their load addresses (20_memory.md R72). -/
inductive HostAction where
  | powerOn (images : List (Addr × List Byte))
  | resetImmediate
  | requestReset
  | setNmiLine (high : Bool)
  | setPortAInput (v : Byte)
  | setPortBInput (v : Byte)
  | supplyRx (bytes : List Byte)
  deriving DecidableEq, Repr

end Sys2Proof.Machine
end

