-- ==== Sys2Proof/Config.lean ====
section
/-! DEFINITION. The parameters of 00_scope.md R2 that an implementation fixes, and the one free value.
The three vectors stand here too; the defaults are `defaultConfig`
(Machine/Defaults.lean). -/

namespace Sys2Proof

/-- `DECIMAL_MODE` (decision D5): what ADC and SBC do when D = 1 (42_arithmetic.md R171, R177). -/
inductive DecimalMode where
  | binary | bcd
  deriving DecidableEq, Repr

/-- `BIT_IMM_FLAGS` (decision D6): whether BIT immediate writes Z only, or N and V too (43_logic_shift.md R183). -/
inductive BitImmFlags where
  | zOnly | nvz
  deriving DecidableEq, Repr

/-- `ACIA_STATUS_BIT7` (decision D16): what a status read shows in bit 7 (60_exceptions.md R323). -/
inductive AciaStatusBit7 where
  | mirrorIrq | stored
  deriving DecidableEq, Repr

/-- `ACIA_CMDCTL_READBACK` (decision D17): what reading command and control gives (60_exceptions.md R325, R326). -/
inductive AciaReadback where
  | stored | zero
  deriving DecidableEq, Repr

/-- The parameters of the machine, fixed after power-on (00_scope.md R2, 10_state.md R29). `baseCycles` lists the opcodes
whose `base_cycles` differs from the table of 30_encoding.md R125, each with one less than its count, which is 1 to 8;
`viaPowerOn` is decision D14, the two bytes of the ACIA decision D15. -/
structure Config where
  decimalMode        : DecimalMode
  bitImmFlags        : BitImmFlags
  aciaPresent        : Bool
  aciaRxCapacity     : Nat
  aciaStatusBit7     : AciaStatusBit7
  aciaCmdctlReadback : AciaReadback
  spPowerOn          : Byte
  baseCycles         : List (Byte × Fin 8)
  viaPowerOn         : Machine.Via
  aciaCommandPowerOn : Byte
  aciaControlPowerOn : Byte
  deriving DecidableEq, Repr

/-- The two devices a bus may carry (10_state.md R29). -/
inductive Device where
  | via | acia
  deriving DecidableEq, Repr

namespace Config

/-- `VEC_NMI` (00_scope.md R2). -/
abbrev vecNmi : Addr := 0xFFFA
/-- `VEC_RESET` (00_scope.md R2). -/
abbrev vecReset : Addr := 0xFFFC
/-- `VEC_IRQ`, shared by IRQ and BRK (00_scope.md R2). -/
abbrev vecIrq : Addr := 0xFFFE

/-- FREE VALUE. A (and, for ADC, C) after ADC (`sub = false`) or SBC (`sub = true`) with D = 1 under
`DECIMAL_MODE = bcd`, when a nibble of A or M is above 9: 42_arithmetic.md R177 says its formulas still define
a value "which a model should not rely on", and 93_implementation_defined.md U2 says `any value`. It is a function
of the operation, the accumulator, the operand and the carry (log 11), and has no body: nothing can be proved of it. -/
opaque bcdUndefined (sub : Bool) (a m : Byte) (c : Bool) : Byte × Bool

end Config

end Sys2Proof
end

