-- ==== Sys2Proof/Machine/Defaults.lean ====
section
/-! DEFINITION. The defaults of the parameters (spec 00_scope.md R2) and the devices' power-on values (10_state.md R39). -/

namespace Sys2Proof.Machine

/-- DESIGN CHOICE (log 5). The default of the VIA's power-on values, all 0 (10_state.md R39, decision D14). -/
def Via.powerOn : Via where
  orb := 0
  ora := 0
  ddrb := 0
  ddra := 0
  t1c := 0
  t1lL := 0
  t1lH := 0
  t2c := 0
  t2lL := 0
  t2lH := 0
  sr := 0
  acr := 0
  pcr := 0
  ifr := 0
  ier := 0

/-- DESIGN CHOICE (log 1). The spec's default of each parameter (00_scope.md R2, decisions D2, D4, D5, D6, D13 to D17, D19). -/
def defaultConfig : Config where
  decimalMode := .binary
  bitImmFlags := .zOnly
  aciaPresent := true
  aciaRxCapacity := 256
  aciaStatusBit7 := .mirrorIrq
  aciaCmdctlReadback := .stored
  spPowerOn := 0x00
  baseCycles := []
  viaPowerOn := Via.powerOn
  aciaCommandPowerOn := 0x00
  aciaControlPowerOn := 0x00

/-- The ACIA at power-on: "status = TDRE (0x10)", the FIFO empty, nothing transmitted; command and control are parameters
(10_state.md R39). DESIGN CHOICE (log 6): the data latch 0x00. DESIGN CHOICE (log 13): no supplied byte is waiting, so a power-on
drops the bytes that the host supplied before it and no tick has taken; R39 and 60_exceptions.md R324, R332 leave them open. -/
def Acia.powerOn (c : Config) : Acia where
  status := 0x10
  command := c.aciaCommandPowerOn
  control := c.aciaControlPowerOn
  dataLatch := 0x00
  rxFifo := []
  incoming := []
  txOut := []

end Sys2Proof.Machine
end

