-- ==== Sys2Proof/Machine/Memory.lean ====
section
/-! DEFINITION. The bytes of RAM and ROM as one list of (address, byte) cells in canonical form: addresses strictly
rising, no cell equal to what an unlisted address reads as. -/

namespace Sys2Proof.Machine

/-- The contents of RAM and ROM (10_state.md R30, R31). -/
abbrev Memory := List Host.Cell

/-- What an unlisted address reads as: "RAM bytes default to 0 on first read", "ROM bytes default to 0"
(10_state.md R30, R31). -/
abbrev unlistedByte : Byte := 0

/-- The stored byte, or 0 if never written or loaded (20_memory.md R70, R71). -/
def Memory.read : Memory → Nat → Byte
  | [], _ => unlistedByte
  | (b, v) :: m, a => if a = b then v else Memory.read m a

/-- Store one byte, keeping the canonical form (20_memory.md R70). -/
def Memory.write : Memory → Nat → Byte → Memory
  | [], a, v => if v = unlistedByte then [] else [(a, v)]
  | (b, w) :: m, a, v =>
    if a < b then (if v = unlistedByte then (b, w) :: m else (a, v) :: (b, w) :: m)
    else if a = b then (if v = unlistedByte then m else (a, v) :: m)
    else (b, w) :: Memory.write m a v

/-- The canonical form. -/
abbrev Memory.wf (m : Memory) : Prop :=
  m.Pairwise (fun c d => c.1 < d.1) ∧ ∀ c ∈ m, c.2 ≠ unlistedByte

/-- A RAM address, 0x0000..0x3FFF (20_memory.md R64). -/
def isRam (a : Addr) : Bool := a.toNat ≤ 0x3FFF

/-- A ROM address, 0x8000..0xFFFF (20_memory.md R64). -/
def isRom (a : Addr) : Bool := 0x8000 ≤ a.toNat

/-- An address of RAM or ROM: reading it has no side effect (20_memory.md R66). -/
def isPlain (a : Addr) : Bool := isRam a || isRom a

/-- Every listed cell lies in RAM or ROM (20_memory.md R64). -/
abbrev Memory.inMap (m : Memory) : Prop :=
  ∀ c ∈ m, c.1 ≤ 0x3FFF ∨ (0x8000 ≤ c.1 ∧ c.1 < 65536)

/-- Place one image in ROM: byte i goes to `load + i`; a byte above 0xFFFF is discarded and one below 0x8000 ignored
(20_memory.md R72). -/
def Memory.loadImage : Memory → Nat → List Byte → Memory
  | m, _, [] => m
  | m, a, v :: rest =>
    Memory.loadImage (if 0x8000 ≤ a ∧ a < 65536 then m.write a v else m) (a + 1) rest

/-- Place several images; where they overlap the later one wins (20_memory.md R72). -/
def Memory.loadImages : Memory → List (Addr × List Byte) → Memory
  | m, [] => m
  | m, (load, bytes) :: rest => Memory.loadImages (m.loadImage load.toNat bytes) rest

end Sys2Proof.Machine
end

