-- ==== Sys2Proof/Machine/State.lean ====
section
/-! DEFINITION. Everything the spec gives the machine, as plain data (spec 10_state.md R20 to R40), the reasons a step
can stop, and the state after reset. -/

namespace Sys2Proof.Machine

/-- The machine. `config` holds the parameters fixed after power-on (log 1). `hostInput` is the MODEL's own field (log 2):
its head lists the host's actions due before the next cycle, its second element those before the cycle after, and so on. -/
structure State where
  config        : Config
  a             : Byte
  x             : Byte
  y             : Byte
  sp            : Byte
  pc            : Addr
  p             : Byte
  resetPending  : Bool
  nmiPending    : Bool
  nmiLastHigh   : Bool
  irqPending    : Bool
  waiting       : Bool
  halted        : Bool
  pendingCycles : Nat
  lastIrqVia    : Bool
  lastIrqAcia   : Bool
  mem           : Memory
  via           : Via
  acia          : Acia
  cycleCount    : Nat
  hostInput     : List (List HostAction)
  deriving DecidableEq, Repr

/-- The faults of the spec (60_exceptions.md section 6). `UnknownOpcode` cannot arise (R281) and `HostIoFailure` is
outside the block (R282). -/
inductive Fault where
  /-- `OutOfRange(a)` (60_exceptions.md R280): raised by a bus read or write of the unmapped address `a`
  (20_memory.md R69). Fatal in the spec too, so stopping is no departure; safe. -/
  | outOfRange (a : Addr)
  deriving DecidableEq, Repr

/-- The reasons the model gives an instruction no meaning. -/
inductive Refusal where
  /-- Raised by `exec`'s arm of an instruction that has no meaning yet; safe. No arm raises it now. -/
  | notModelled (mnemonic : String)
  deriving DecidableEq, Repr

/-- The machine after `PowerOn` with no image and `ResetImmediate` (70_reset_and_hazards.md R341, R342, 10_state.md R39, R40).
PC is the RESET vector, 0x0000 where no ROM image is loaded (20_memory.md R73). DESIGN CHOICE: SP (log 4), nmi_last_high
(log 7), last_irq (log 8), the devices (logs 5, 6), hostInput (log 2). -/
def State.reset : State where
  config := defaultConfig
  a := 0
  x := 0
  y := 0
  sp := defaultConfig.spPowerOn - 3
  pc := 0x0000
  p := 0x34
  resetPending := false
  nmiPending := false
  nmiLastHigh := true
  irqPending := false
  waiting := false
  halted := false
  pendingCycles := 0
  lastIrqVia := false
  lastIrqAcia := false
  mem := []
  via := defaultConfig.viaPowerOn
  acia := Acia.powerOn defaultConfig
  cycleCount := 0
  hostInput := []

end Sys2Proof.Machine
end

