-- ==== Sys2Proof/Machine/Updates.lean ====
section
/-! DEFINITION. One named update per field of State that changes, and the status register's flags as named bits
(spec 10_state.md R20 to R29). -/

namespace Sys2Proof.Machine

/-- `a` replaced. -/
def State.setA (v : Byte) (s : State) : State := { s with a := v }

/-- `x` replaced. -/
def State.setX (v : Byte) (s : State) : State := { s with x := v }

/-- `y` replaced. -/
def State.setY (v : Byte) (s : State) : State := { s with y := v }

/-- `sp` replaced. -/
def State.setSp (v : Byte) (s : State) : State := { s with sp := v }

/-- `pc` replaced. -/
def State.setPc (v : Addr) (s : State) : State := { s with pc := v }

/-- `p` replaced. -/
def State.setP (v : Byte) (s : State) : State := { s with p := v }

/-- `resetPending` replaced. -/
def State.setResetPending (v : Bool) (s : State) : State := { s with resetPending := v }

/-- `nmiPending` replaced. -/
def State.setNmiPending (v : Bool) (s : State) : State := { s with nmiPending := v }

/-- `nmiLastHigh` replaced. -/
def State.setNmiLastHigh (v : Bool) (s : State) : State := { s with nmiLastHigh := v }

/-- `irqPending` replaced. -/
def State.setIrqPending (v : Bool) (s : State) : State := { s with irqPending := v }

/-- `waiting` replaced. -/
def State.setWaiting (v : Bool) (s : State) : State := { s with waiting := v }

/-- `halted` replaced. -/
def State.setHalted (v : Bool) (s : State) : State := { s with halted := v }

/-- `pendingCycles` replaced. -/
def State.setPendingCycles (v : Nat) (s : State) : State := { s with pendingCycles := v }

/-- `lastIrqVia` replaced. -/
def State.setLastIrqVia (v : Bool) (s : State) : State := { s with lastIrqVia := v }

/-- `lastIrqAcia` replaced. -/
def State.setLastIrqAcia (v : Bool) (s : State) : State := { s with lastIrqAcia := v }

/-- `mem` replaced. -/
def State.setMem (v : Memory) (s : State) : State := { s with mem := v }

/-- `via` replaced. -/
def State.setVia (v : Via) (s : State) : State := { s with via := v }

/-- `acia` replaced. -/
def State.setAcia (v : Acia) (s : State) : State := { s with acia := v }

/-- `cycleCount` replaced. -/
def State.setCycleCount (v : Nat) (s : State) : State := { s with cycleCount := v }

/-- `hostInput` replaced. -/
def State.setHostInput (v : List (List HostAction)) (s : State) : State := { s with hostInput := v }

/-- The flags of P (10_state.md R22). -/
inductive Flag where
  | c | z | i | d | b | u | v | n
  deriving DecidableEq, Repr

/-- A flag's bit: "positions C=0, Z=1, I=2, D=3, B=4, U=5, V=6, N=7" (10_state.md R22). -/
def Flag.pos : Flag → Nat
  | .c => 0
  | .z => 1
  | .i => 2
  | .d => 3
  | .b => 4
  | .u => 5
  | .v => 6
  | .n => 7

/-- One bit of a byte replaced. -/
def setBit (p : Byte) (n : Nat) (b : Bool) : Byte := if b then p ||| bitMask n else p &&& ~~~(bitMask n)

/-- `P.<flag>` (00_scope.md section 6). -/
def State.flag (f : Flag) (s : State) : Bool := s.p.getLsbD f.pos

/-- `P.<flag> <- b` (00_scope.md section 6). -/
def State.setFlag (f : Flag) (b : Bool) (s : State) : State := s.setP (setBit s.p f.pos b)

/-- `SetNZ(v)` (10_state.md R25). -/
def State.setNZ (v : Byte) (s : State) : State := (s.setFlag .z (v == 0)).setFlag .n (v.getLsbD 7)

end Sys2Proof.Machine
end

