-- ==== Sys2Proof/Machine/Flags.lean ====
section
/-! DEFINITION. The flag computations and the arithmetic behind them (spec 42_arithmetic.md, 43_logic_shift.md). -/

namespace Sys2Proof.Machine

/-- A flag as the number 0 or 1. -/
def bitNat (b : Bool) : Nat := if b then 1 else 0

/-- An 8-bit result with its carry (or not-borrow) and signed overflow. -/
structure AluResult where
  value    : Byte
  carry    : Bool
  overflow : Bool
  deriving DecidableEq, Repr

/-- The binary sum of ADC: r is exact, 0..511 (42_arithmetic.md R172). -/
def addBinary (a m : Byte) (c : Bool) : AluResult :=
  let r : Nat := a.toNat + m.toNat + bitNat c
  let r8 : Byte := BitVec.ofNat 8 r
  { value := r8, carry := decide (r > 0xFF), overflow := (a ^^^ r8) &&& (m ^^^ r8) &&& 0x80 != 0 }

/-- The binary difference of SBC: r is exact, -256..255 (42_arithmetic.md R173). -/
def subBinary (a m : Byte) (c : Bool) : AluResult :=
  let r : Int := (a.toNat : Int) - m.toNat - (1 - bitNat c)
  let r8 : Byte := BitVec.ofInt 8 r
  { value := r8, carry := decide (r ≥ 0), overflow := (a ^^^ m) &&& (a ^^^ r8) &&& 0x80 != 0 }

/-- Both digits are decimal: no nibble above 9 (93_implementation_defined.md U2). -/
def validBcd (v : Byte) : Bool := v.toNat % 16 ≤ 9 && v.toNat / 16 ≤ 9

/-- A and C of ADC under `DECIMAL_MODE = bcd` with D = 1, the formula of 42_arithmetic.md R177. -/
def addDecimalFormula (a m : Byte) (c : Bool) : Byte × Bool :=
  let low : Nat := a.toNat % 16 + m.toNat % 16 + bitNat c
  let al : Nat := if low ≥ 0x0A then (low + 0x06) % 16 + 0x10 else low
  let sum : Nat := a.toNat / 16 * 16 + m.toNat / 16 * 16 + al
  let r : Nat := if sum ≥ 0xA0 then sum + 0x60 else sum
  (BitVec.ofNat 8 r, decide (r ≥ 0x100))

/-- A and C of ADC under `DECIMAL_MODE = bcd` with D = 1 (42_arithmetic.md R177); a free value where an operand is
no BCD number (log 11). -/
def addDecimal (a m : Byte) (c : Bool) : Byte × Bool :=
  if validBcd a && validBcd m then addDecimalFormula a m c else Config.bcdUndefined false a m c

/-- A of SBC under `DECIMAL_MODE = bcd` with D = 1, the formula of 42_arithmetic.md R177. -/
def subDecimalFormula (a m : Byte) (c : Bool) : Byte :=
  let low : Int := (a.toNat % 16 : Nat) - (m.toNat % 16 : Nat) + bitNat c - 1
  let al : Int := if low < 0 then (low - 0x06) % 16 - 0x10 else low
  let diff : Int := (a.toNat / 16 * 16 : Nat) - (m.toNat / 16 * 16 : Nat) + al
  BitVec.ofInt 8 (if diff < 0 then diff - 0x60 else diff)

/-- A of SBC under `DECIMAL_MODE = bcd` with D = 1 (42_arithmetic.md R177); a free value where an operand is no
BCD number (log 11). -/
def subDecimal (a m : Byte) (c : Bool) : Byte :=
  if validBcd a && validBcd m then subDecimalFormula a m c else (Config.bcdUndefined true a m c).1

/-- D selects decimal arithmetic: only under `DECIMAL_MODE = bcd` (42_arithmetic.md R171). -/
def State.decimalActive (s : State) : Bool := s.config.decimalMode == .bcd && s.flag .d

/-- ADC on the operand byte `m`: V, N, Z of the binary sum, in decimal mode too (R177; log 11); A and C of the sum the mode selects
(42_arithmetic.md R172, R177). -/
def State.addToA (m : Byte) (s : State) : State :=
  let r := addBinary s.a m (s.flag .c)
  let res := if s.decimalActive then addDecimal s.a m (s.flag .c) else (r.value, r.carry)
  (((s.setFlag .v r.overflow).setNZ r.value).setFlag .c res.2).setA res.1

/-- SBC on the operand byte `m`: V, C, N, Z of the binary difference, in decimal mode too (R177; log 11); A of the difference the
mode selects (42_arithmetic.md R173, R177). -/
def State.subFromA (m : Byte) (s : State) : State :=
  let r := subBinary s.a m (s.flag .c)
  let res := if s.decimalActive then subDecimal s.a m (s.flag .c) else r.value
  (((s.setFlag .v r.overflow).setNZ r.value).setFlag .c r.carry).setA res

/-- CMP, CPX, CPY: C = (r >= 0), N and Z from r mod 256, for the exact r = `reg - m` (42_arithmetic.md R174 to R176). -/
def State.compare (reg m : Byte) (s : State) : State :=
  let r : Int := (reg.toNat : Int) - m.toNat
  (s.setFlag .c (decide (r ≥ 0))).setNZ (BitVec.ofInt 8 r)

/-- BIT's Z, "Z from (A AND M) == 0" (43_logic_shift.md R183); also TRB's and TSB's (R188, R189). -/
def State.testZ (m : Byte) (s : State) : State := s.setFlag .z (s.a &&& m == 0)

/-- BIT's N and V, from bits 7 and 6 of the operand (43_logic_shift.md R183). -/
def State.testNV (m : Byte) (s : State) : State := (s.setFlag .n (m.getLsbD 7)).setFlag .v (m.getLsbD 6)

/-- ASL: the result and the state with its flags (43_logic_shift.md R184). -/
def aslByte (v : Byte) (s : State) : Byte × State :=
  let r : Byte := v <<< 1
  (r, (s.setFlag .c (v.getLsbD 7)).setNZ r)

/-- LSR (43_logic_shift.md R185). -/
def lsrByte (v : Byte) (s : State) : Byte × State :=
  let r : Byte := v >>> 1
  (r, (s.setFlag .c (v.getLsbD 0)).setNZ r)

/-- ROL: C, as it was, enters at bit 0 (43_logic_shift.md R186). -/
def rolByte (v : Byte) (s : State) : Byte × State :=
  let r : Byte := setBit (v <<< 1) 0 (s.flag .c)
  (r, (s.setFlag .c (v.getLsbD 7)).setNZ r)

/-- ROR: C, as it was, enters at bit 7 (43_logic_shift.md R187). -/
def rorByte (v : Byte) (s : State) : Byte × State :=
  let r : Byte := setBit (v >>> 1) 7 (s.flag .c)
  (r, (s.setFlag .c (v.getLsbD 0)).setNZ r)

/-- INC (44_incdec_flags.md R200). -/
def incByte (v : Byte) (s : State) : Byte × State := (v + 1, s.setNZ (v + 1))

/-- DEC (44_incdec_flags.md R201). -/
def decByte (v : Byte) (s : State) : Byte × State := (v - 1, s.setNZ (v - 1))

/-- TRB: Z from the value before modification (43_logic_shift.md R188). -/
def trbByte (v : Byte) (s : State) : Byte × State := (v &&& ~~~s.a, s.testZ v)

/-- TSB (43_logic_shift.md R189). -/
def tsbByte (v : Byte) (s : State) : Byte × State := (v ||| s.a, s.testZ v)

/-- RMBn (43_logic_shift.md R190). -/
def rmbByte (n : Nat) (v : Byte) (s : State) : Byte × State := (v &&& ~~~(bitMask n), s)

/-- SMBn (43_logic_shift.md R191). -/
def smbByte (n : Nat) (v : Byte) (s : State) : Byte × State := (v ||| bitMask n, s)

end Sys2Proof.Machine
end

