-- ==== Sys2Proof/Machine/Acia.lean ====
section
/-! DEFINITION. The ACIA (spec 60_exceptions.md R320 to R333): register reads and writes, the tick, the interrupt line. -/

namespace Sys2Proof.Machine

/-- The four registers (60_exceptions.md R320). -/
inductive AciaReg where
  | data | status | command | control
  deriving DecidableEq, Repr

/-- "The register number is a[1:0]" (60_exceptions.md section 10, R320). -/
def AciaReg.ofAddr (a : Addr) : AciaReg :=
  match a.toNat % 4 with
  | 0 => .data
  | 1 => .status
  | 2 => .command
  | _ => .control

/-- `ACIA.has_irq()`: `command[7] == 0 and rx_fifo is not empty` (60_exceptions.md R330). -/
def Acia.hasIrq (d : Acia) : Bool := !d.command.getLsbD 7 && !d.rxFifo.isEmpty

/-- Reading the data register: the head of the FIFO, removed; RDRF cleared when the FIFO becomes empty; 0 from an empty
FIFO (60_exceptions.md R321). -/
def Acia.readData (d : Acia) : Byte × Acia :=
  match d.rxFifo with
  | [] => (0x00, d)
  | b :: rest =>
    (b, { d with rxFifo := rest, status := if rest.isEmpty then d.status &&& ~~~0x08#8 else d.status })

/-- `ACIA.read` (60_exceptions.md R321, R323, R325, R326). -/
def Acia.read (c : Config) (r : AciaReg) (d : Acia) : Byte × Acia :=
  match r with
  | .data => d.readData
  | .status =>
    match c.aciaStatusBit7 with
    | .mirrorIrq => ((d.status &&& 0x7F) ||| (if d.hasIrq then 0x80 else 0x00), d)
    | .stored => (d.status, d)
  | .command =>
    match c.aciaCmdctlReadback with
    | .stored => (d.command, d)
    | .zero => (0x00, d)
  | .control =>
    match c.aciaCmdctlReadback with
    | .stored => (d.control, d)
    | .zero => (0x00, d)

/-- The programmed reset: "as on construction", so command and control go back to the parameters' values, by default the
rule's 0x00; bytes not yet taken and `tx_out` stay (60_exceptions.md R324, decision D15). -/
def Acia.programmedReset (c : Config) (d : Acia) : Acia :=
  { d with status := 0x10, rxFifo := [], command := c.aciaCommandPowerOn, control := c.aciaControlPowerOn }

/-- `ACIA.write` (60_exceptions.md R322, R324, R325, R326). -/
def Acia.write (c : Config) (r : AciaReg) (v : Byte) (d : Acia) : Acia :=
  match r with
  | .data => { d with txOut := d.txOut ++ [v], status := d.status ||| 0x10 }
  | .status => d.programmedReset c
  | .command => { d with command := v }
  | .control => { d with control := v }

/-- One received byte: into the FIFO, or OVRN set and the byte discarded (60_exceptions.md R329). -/
def Acia.receive (capacity : Nat) (d : Acia) (b : Byte) : Acia :=
  if d.rxFifo.length < capacity then { d with rxFifo := d.rxFifo ++ [b] }
  else { d with status := d.status ||| 0x04 }

/-- RDRF set if the FIFO is not empty (60_exceptions.md R329). -/
def Acia.setRdrf (d : Acia) : Acia :=
  if d.rxFifo.isEmpty then d else { d with status := d.status ||| 0x08 }

/-- `ACIA.Tick()` (60_exceptions.md R329). -/
def Acia.tick (capacity : Nat) (d : Acia) : Acia :=
  Acia.setRdrf { d.incoming.foldl (Acia.receive capacity) d with incoming := [] }

/-- `SupplyRx(bytes)`: appended to what the next tick takes (10_state.md R38, 60_exceptions.md R332). -/
def Acia.supply (bytes : List Byte) (d : Acia) : Acia := { d with incoming := d.incoming ++ bytes }

end Sys2Proof.Machine
end

