-- ==== Sys2Proof/Machine/Via.lean ====
section
/-! DEFINITION. The VIA (spec 60_exceptions.md R300 to R319): register reads and writes, the tick, the interrupt line. -/

namespace Sys2Proof.Machine

/-- The sixteen registers, in order of their offset (60_exceptions.md R316). -/
inductive ViaReg where
  | orb | ora | ddrb | ddra | t1cL | t1cH | t1lL | t1lH | t2cL | t2cH | sr | acr | pcr | ifr | ier | oraNh
  deriving DecidableEq, Repr

/-- "select one of sixteen registers by a[3:0]" (60_exceptions.md R316). -/
def ViaReg.ofAddr (a : Addr) : ViaReg :=
  match a.toNat % 16 with
  | 0 => .orb
  | 1 => .ora
  | 2 => .ddrb
  | 3 => .ddra
  | 4 => .t1cL
  | 5 => .t1cH
  | 6 => .t1lL
  | 7 => .t1lH
  | 8 => .t2cL
  | 9 => .t2cH
  | 10 => .sr
  | 11 => .acr
  | 12 => .pcr
  | 13 => .ifr
  | 14 => .ier
  | _ => .oraNh

/-- IFR with the flags of `mask` cleared. -/
def Via.clearIfr (mask : Byte) (d : Via) : Via := { d with ifr := d.ifr &&& ~~~mask }

/-- `DeriveSummary()` (60_exceptions.md R315). -/
def Via.deriveSummary (d : Via) : Via :=
  { d with ifr := (d.ifr &&& 0x7F) ||| (if d.ifr.setWidth 7 &&& d.ier ≠ 0 then 0x80 else 0x00) }

/-- `VIA.read` (60_exceptions.md R300 to R314): the byte returned and the VIA after the read. -/
def Via.read (r : ViaReg) (d : Via) : Byte × Via :=
  match r with
  | .orb => (d.orb &&& d.ddrb, d)
  | .ora => (d.ora &&& d.ddra, d.clearIfr 0x03)
  | .ddrb => (d.ddrb, d)
  | .ddra => (d.ddra, d)
  | .t1cL => (loByte d.t1c, d.clearIfr 0x40)
  | .t1cH => (hiByte d.t1c, d)
  | .t1lL => (d.t1lL, d)
  | .t1lH => (d.t1lH, d)
  | .t2cL => (loByte d.t2c, d.clearIfr 0x20)
  | .t2cH => (hiByte d.t2c, d)
  | .sr => (d.sr, d)
  | .acr => (d.acr, d)
  | .pcr => (d.pcr, d)
  | .ifr => (d.ifr, d)
  | .ier => (d.ier.setWidth 8 ||| 0x80, d)
  | .oraNh => (d.ora &&& d.ddra, d)

/-- `VIA.write` (60_exceptions.md R300 to R314). -/
def Via.write (r : ViaReg) (v : Byte) (d : Via) : Via :=
  match r with
  | .orb => { d.clearIfr 0x18 with orb := (d.orb &&& ~~~d.ddrb) ||| (v &&& d.ddrb) }
  | .ora => { d.clearIfr 0x03 with ora := (d.ora &&& ~~~d.ddra) ||| (v &&& d.ddra) }
  | .ddrb => { d with ddrb := v }
  | .ddra => { d with ddra := v }
  | .t1cL => { d with t1lL := v }
  | .t1cH => { d.clearIfr 0x40 with t1lH := v, t1c := wordOf v d.t1lL }
  | .t1lL => { d with t1lL := v }
  | .t1lH => { d.clearIfr 0x40 with t1lH := v }
  | .t2cL => { d with t2lL := v }
  | .t2cH => { d.clearIfr 0x20 with t2lH := v, t2c := wordOf v d.t2lL }
  | .sr => { d with sr := v }
  | .acr => { d with acr := v }
  | .pcr => { d with pcr := v }
  | .ifr => (d.clearIfr (v &&& 0x7F)).deriveSummary
  | .ier =>
    Via.deriveSummary
      { d with ier := if v.getLsbD 7 then d.ier ||| v.setWidth 7 else d.ier &&& ~~~(v.setWidth 7) }
  | .oraNh => { d with ora := (d.ora &&& ~~~d.ddra) ||| (v &&& d.ddra) }

/-- Timer 1's part of `VIA.Tick` (60_exceptions.md R318). -/
def Via.tickT1 (d : Via) : Via :=
  if d.t1c = 0 then d
  else if d.t1c - 1 = 0 then
    { d with
      ifr := d.ifr ||| 0x40
      t1c := if d.acr.getLsbD 6 then wordOf d.t1lH d.t1lL else 0 }
  else { d with t1c := d.t1c - 1 }

/-- Timer 2's part of `VIA.Tick` (60_exceptions.md R318): frozen while ACR bit 5 is 1. -/
def Via.tickT2 (d : Via) : Via :=
  if d.acr.getLsbD 5 then d
  else if d.t2c = 0 then d
  else if d.t2c - 1 = 0 then { d with ifr := d.ifr ||| 0x20, t2c := 0 }
  else { d with t2c := d.t2c - 1 }

/-- `VIA.Tick()` (60_exceptions.md R318). -/
def Via.tick (d : Via) : Via := d.tickT1.tickT2.deriveSummary

/-- `VIA.has_irq()` (60_exceptions.md R319). -/
def Via.hasIrq (d : Via) : Bool := d.ifr.getLsbD 7

/-- `port_a_out` (10_state.md R37). -/
def Via.portAOut (d : Via) : Byte := d.ora &&& d.ddra

/-- `port_b_out` (10_state.md R37). -/
def Via.portBOut (d : Via) : Byte := d.orb &&& d.ddrb

/-- `SetPortAInput(v)` (10_state.md R38). -/
def Via.setPortA (v : Byte) (d : Via) : Via := { d with ora := (d.ora &&& d.ddra) ||| (v &&& ~~~d.ddra) }

/-- `SetPortBInput(v)` (10_state.md R38). -/
def Via.setPortB (v : Byte) (d : Via) : Via := { d with orb := (d.orb &&& d.ddrb) ||| (v &&& ~~~d.ddrb) }

end Sys2Proof.Machine
end

