-- ==== Sys2Proof/Machine/Ops.lean ====
section
/-! DEFINITION. The named operations over memory and registers: the bus (spec 20_memory.md R60 to R85), the stack
(41_transfer_stack.md R156 to R158), taking an interrupt or BRK and returning from one (60_exceptions.md R266,
46_system.md R250, R251), the RESET sequence (70_reset_and_hazards.md R342). -/

namespace Sys2Proof.Machine

/-- `PERIPHERALS` in registration order (00_scope.md R2, 10_state.md R29); only the VIA when the ACIA is absent
(60_exceptions.md R333). -/
def peripherals (c : Config) : List Device := if c.aciaPresent then [.via, .acia] else [.via]

/-- `handles_address(p, a)` (20_memory.md R85). -/
def handles (d : Device) (a : Addr) : Bool :=
  match d with
  | .via => 0x6000 ≤ a.toNat && a.toNat ≤ 0x600F
  | .acia => 0x5000 ≤ a.toNat && a.toNat ≤ 0x5003

/-- The peripheral that answers an address, the first that claims it (20_memory.md R65, R66). -/
def deviceAt (c : Config) (a : Addr) : Option Device := (peripherals c).find? (fun d => handles d a)

/-- Some device, ROM or RAM answers the address (20_memory.md R64, R69). -/
def mapped (c : Config) (a : Addr) : Bool := (deviceAt c a).isSome || isPlain a

/-- `MemRead(addr, 1)` (20_memory.md R66): the byte, and the machine after the read's side effect. -/
def busRead (a : Addr) (s : State) : Except Fault (Byte × State) :=
  match deviceAt s.config a with
  | some .via => .ok ((s.via.read (.ofAddr a)).1, s.setVia (s.via.read (.ofAddr a)).2)
  | some .acia => .ok ((s.acia.read s.config (.ofAddr a)).1, s.setAcia (s.acia.read s.config (.ofAddr a)).2)
  | none => if isPlain a then .ok (s.mem.read a.toNat, s) else .error (.outOfRange a)

/-- `MemWrite(addr, 1, v)` (20_memory.md R67): a write to ROM is dropped. -/
def busWrite (a : Addr) (v : Byte) (s : State) : Except Fault State :=
  match deviceAt s.config a with
  | some .via => .ok (s.setVia (s.via.write (.ofAddr a) v))
  | some .acia => .ok (s.setAcia (s.acia.write s.config (.ofAddr a) v))
  | none =>
    if isRom a then .ok s
    else if isRam a then .ok (s.setMem (s.mem.write a.toNat v))
    else .error (.outOfRange a)

/-- `ReadWord(addr)`: low byte first, the high byte's address wraps at 16 bits (20_memory.md R68). -/
def readWord (a : Addr) (s : State) : Except Fault (Addr × State) := do
  let (lo, s) ← busRead a s
  let (hi, s) ← busRead (a + 1) s
  .ok (wordOf hi lo, s)

/-- The address of the byte SP points at, STACK_BASE + SP (10_state.md R24). -/
def stackAddr (sp : Byte) : Addr := 0x0100#16 + zext16 sp

/-- `Push(v)` (41_transfer_stack.md R156). -/
def push (v : Byte) (s : State) : Except Fault State := do
  let s ← busWrite (stackAddr s.sp) v s
  .ok (s.setSp (s.sp - 1))

/-- `Pull()` (41_transfer_stack.md R157). -/
def pull (s : State) : Except Fault (Byte × State) :=
  busRead (stackAddr (s.sp + 1)) (s.setSp (s.sp + 1))

/-- `PushWord(w)`: high byte first (41_transfer_stack.md R158). -/
def pushWord (w : Addr) (s : State) : Except Fault State := do
  let s ← push (hiByte w) s
  push (loByte w) s

/-- `PullWord()`: low byte first (41_transfer_stack.md R158). -/
def pullWord (s : State) : Except Fault (Addr × State) := do
  let (lo, s) ← pull s
  let (hi, s) ← pull s
  .ok (wordOf hi lo, s)

/-- P as PHP and BRK push it: B = 1, U = 1 (41_transfer_stack.md R160, 46_system.md R250). -/
def statusPushedBySoftware (p : Byte) : Byte := p ||| 0x30

/-- P as the NMI and IRQ sequences push it: U = 1, B = 0 (60_exceptions.md R266). -/
def statusPushedByHardware (p : Byte) : Byte := (p ||| 0x20) &&& ~~~0x10#8

/-- P as PLP and RTI load it: B cleared, U forced to 1 (10_state.md R23, 41_transfer_stack.md R162). -/
def statusPulled (v : Byte) : Byte := (v &&& 0xCF) ||| 0x20

/-- TAKING AN EXCEPTION, shared by BRK, NMI and IRQ (46_system.md R250, 60_exceptions.md R266): push PC high, PC low and
the given copy of P, set I, load PC from the vector. D is left as it is (decision D24). -/
def enterException (pushed : Byte) (vec : Addr) (s : State) : Except Fault State := do
  let s ← pushWord s.pc s
  let s ← push pushed s
  let (target, s) ← readWord vec (s.setFlag .i true)
  .ok (s.setPc target)

/-- RETURNING FROM ONE: RTI pulls P, then PC, with no increment (46_system.md R251). -/
def returnFromException (s : State) : Except Fault State := do
  let (v, s) ← pull s
  let (target, s) ← pullWord (s.setP (statusPulled v))
  .ok (s.setPc target)

/-- `InterruptSequence(vec)` (60_exceptions.md R266). -/
def interruptSequence (vec : Addr) (s : State) : Except Fault State := do
  let s ← enterException (statusPushedByHardware s.p) vec s
  .ok ((s.setWaiting false).setPendingCycles 7)

/-- `ResetSequence(cycles)` (70_reset_and_hazards.md R342): SP - 3 with nothing written, PC from the vector, A, X, Y, P and
the latches to their fixed values. -/
def resetSequence (cycles : Nat) (s : State) : Except Fault State := do
  let (target, s) ← readWord Config.vecReset (s.setSp (s.sp - 3))
  let s := ((((s.setPc target).setA 0).setX 0).setY 0).setP 0x34
  let s := ((s.setHalted false).setNmiPending false).setIrqPending false
  .ok (((s.setWaiting false).setResetPending false).setPendingCycles cycles)

/-- The outcome of an operation that can only end in a state or a fault. -/
def toOutcome : Except Fault State → Host.Outcome State Fault Refusal
  | .ok s => .next s
  | .error f => .fault f

end Sys2Proof.Machine
end

