-- ==== Sys2Proof/Machine/Operands.lean ====
section
/-! DEFINITION. The addressing modes (spec 30_encoding.md R104 to R119) on operand bytes that the fetch has read, with PC
already advanced, and the shapes of instruction that share them. -/

namespace Sys2Proof.Machine

/-- A pointer in the zero page: its high byte's address wraps inside the page (20_memory.md R62, 30_encoding.md R113 to R115). -/
def zeroPagePointer (z : Byte) (s : State) : Except Fault (Addr × State) := do
  let (lo, s) ← busRead (zext16 z) s
  let (hi, s) ← busRead (zext16 (z + 1)) s
  .ok (wordOf hi lo, s)

/-- `EA_<mode>()` of the modes that name a memory byte (30_encoding.md R106 to R108, R110 to R115). -/
def effectiveAddress (m : MemMode) (s : State) : Except Fault (Addr × State) :=
  match m with
  | .zp z => .ok (zext16 z, s)
  | .zpx z => .ok (zext16 (z + s.x), s)
  | .zpy z => .ok (zext16 (z + s.y), s)
  | .abs w => .ok (w, s)
  | .abx w => .ok (w + zext16 s.x, s)
  | .aby w => .ok (w + zext16 s.y, s)
  | .izx z => zeroPagePointer (z + s.x) s
  | .izy z => do
    let (ptr, s) ← zeroPagePointer z s
    .ok (ptr + zext16 s.y, s)
  | .izp z => zeroPagePointer z s

/-- The byte a reading instruction operates on: `MemRead(ea, 1)`; the immediate byte has been read by the fetch, once
(20_memory.md R76, 30_encoding.md R109). -/
def readSource (o : Source) (s : State) : Except Fault (Byte × State) :=
  match o with
  | .imm v => .ok (v, s)
  | .mem m => do
    let (ea, s) ← effectiveAddress m s
    busRead ea s

/-- The target of JMP (30_encoding.md R110, R116, R117). -/
def jumpTarget (j : JumpMode) (s : State) : Except Fault (Addr × State) :=
  match j with
  | .abs w => .ok (w, s)
  | .ind w => readWord w s
  | .iax w => readWord (w + zext16 s.x) s

/-- An instruction that reads its operand and then changes registers and flags only. -/
def withSource (o : Source) (f : Byte → State → State) (s : State) : Host.Outcome State Fault Refusal :=
  toOutcome do
    let (v, s) ← readSource o s
    .ok (f v s)

/-- An instruction that stores a byte at its operand's address; nothing is read there first (40_load_store.md R143). -/
def store (m : MemMode) (v : Byte) (s : State) : Host.Outcome State Fault Refusal :=
  toOutcome do
    let (ea, s) ← effectiveAddress m s
    busWrite ea v s

/-- A read-modify-write of a memory byte: one read, one write, in that order (43_logic_shift.md, 20_memory.md R76). -/
def modifyMemory (m : MemMode) (f : Byte → State → Byte × State) (s : State) : Host.Outcome State Fault Refusal :=
  toOutcome do
    let (ea, s) ← effectiveAddress m s
    let (v, s) ← busRead ea s
    busWrite ea (f v s).1 (f v s).2

/-- A modification of A or of a memory byte (43_logic_shift.md section 2, 44_incdec_flags.md R200, R201). -/
def modify (t : Target) (f : Byte → State → Byte × State) (s : State) : Host.Outcome State Fault Refusal :=
  match t with
  | .acc => .next ((f s.a s).2.setA (f s.a s).1)
  | .mem m => modifyMemory m f s

/-- A push of a register (41_transfer_stack.md R159, R160, R163, R164). -/
def pushRegister (v : Byte) (s : State) : Host.Outcome State Fault Refusal := toOutcome (push v s)

/-- A pull into a register (41_transfer_stack.md R161, R162, R165, R166). -/
def pullRegister (f : Byte → State → State) (s : State) : Host.Outcome State Fault Refusal :=
  toOutcome do
    let (v, s) ← pull s
    .ok (f v s)

/-- `Branch(cond)`: PC already points at the next instruction (45_control_flow.md R223). -/
def branch (cond : Bool) (off : Byte) (s : State) : Host.Outcome State Fault Refusal :=
  .next (if cond then s.setPc (s.pc + sext16 off) else s)

/-- BBRn (`taken = false`) and BBSn (`taken = true`): branch if bit n of the zero-page byte is `taken`
(45_control_flow.md R233, R234). -/
def branchOnBit (n : Nat) (taken : Bool) (z off : Byte) (s : State) : Host.Outcome State Fault Refusal :=
  toOutcome do
    let (v, s) ← busRead (zext16 z) s
    .ok (if v.getLsbD n == taken then s.setPc (s.pc + sext16 off) else s)

end Sys2Proof.Machine
end

