-- ==== Sys2Proof/Machine/Arithmetic.lean ====
section
/-! DEFINITION. Arithmetic and compare (spec 42_arithmetic.md R170 to R178). -/

namespace Sys2Proof.Machine

/-- ADC (42_arithmetic.md R172, R177). -/
def execAdc (o : Source) (s : State) : Host.Outcome State Fault Refusal := withSource o State.addToA s

/-- SBC (42_arithmetic.md R173, R177). -/
def execSbc (o : Source) (s : State) : Host.Outcome State Fault Refusal := withSource o State.subFromA s

/-- CMP (42_arithmetic.md R174). -/
def execCmp (o : Source) (s : State) : Host.Outcome State Fault Refusal := withSource o (fun v s => s.compare s.a v) s

/-- CPX (42_arithmetic.md R175). -/
def execCpx (o : Source) (s : State) : Host.Outcome State Fault Refusal := withSource o (fun v s => s.compare s.x v) s

/-- CPY (42_arithmetic.md R176). -/
def execCpy (o : Source) (s : State) : Host.Outcome State Fault Refusal := withSource o (fun v s => s.compare s.y v) s

end Sys2Proof.Machine
end

