-- ==== Sys2Proof/Machine/Control.lean ====
section
/-! DEFINITION. Control transfer and no-operations (spec 45_control_flow.md R220 to R237). -/

namespace Sys2Proof.Machine

/-- JMP (45_control_flow.md R220). -/
def execJmp (j : JumpMode) (s : State) : Host.Outcome State Fault Refusal :=
  toOutcome do
    let (target, s) ← jumpTarget j s
    .ok (s.setPc target)

/-- JSR: pushes the address of its own last byte (45_control_flow.md R221). -/
def execJsr (w : Addr) (s : State) : Host.Outcome State Fault Refusal :=
  toOutcome do
    let s ← pushWord (s.pc - 1) s
    .ok (s.setPc w)

/-- RTS: the pulled word plus 1 (45_control_flow.md R222). -/
def execRts (s : State) : Host.Outcome State Fault Refusal :=
  toOutcome do
    let (w, s) ← pullWord s
    .ok (s.setPc (w + 1))

/-- BPL (45_control_flow.md R224). -/
def execBpl (off : Byte) (s : State) : Host.Outcome State Fault Refusal := branch (!s.flag .n) off s

/-- BMI (45_control_flow.md R225). -/
def execBmi (off : Byte) (s : State) : Host.Outcome State Fault Refusal := branch (s.flag .n) off s

/-- BVC (45_control_flow.md R226). -/
def execBvc (off : Byte) (s : State) : Host.Outcome State Fault Refusal := branch (!s.flag .v) off s

/-- BVS (45_control_flow.md R227). -/
def execBvs (off : Byte) (s : State) : Host.Outcome State Fault Refusal := branch (s.flag .v) off s

/-- BCC (45_control_flow.md R228). -/
def execBcc (off : Byte) (s : State) : Host.Outcome State Fault Refusal := branch (!s.flag .c) off s

/-- BCS (45_control_flow.md R229). -/
def execBcs (off : Byte) (s : State) : Host.Outcome State Fault Refusal := branch (s.flag .c) off s

/-- BNE (45_control_flow.md R230). -/
def execBne (off : Byte) (s : State) : Host.Outcome State Fault Refusal := branch (!s.flag .z) off s

/-- BEQ (45_control_flow.md R231). -/
def execBeq (off : Byte) (s : State) : Host.Outcome State Fault Refusal := branch (s.flag .z) off s

/-- BRA (45_control_flow.md R232). -/
def execBra (off : Byte) (s : State) : Host.Outcome State Fault Refusal := branch true off s

/-- BBR0 (45_control_flow.md R233). -/
def execBbr0 (z off : Byte) (s : State) : Host.Outcome State Fault Refusal := branchOnBit 0 false z off s

/-- BBR1 (45_control_flow.md R233). -/
def execBbr1 (z off : Byte) (s : State) : Host.Outcome State Fault Refusal := branchOnBit 1 false z off s

/-- BBR2 (45_control_flow.md R233). -/
def execBbr2 (z off : Byte) (s : State) : Host.Outcome State Fault Refusal := branchOnBit 2 false z off s

/-- BBR3 (45_control_flow.md R233). -/
def execBbr3 (z off : Byte) (s : State) : Host.Outcome State Fault Refusal := branchOnBit 3 false z off s

/-- BBR4 (45_control_flow.md R233). -/
def execBbr4 (z off : Byte) (s : State) : Host.Outcome State Fault Refusal := branchOnBit 4 false z off s

/-- BBR5 (45_control_flow.md R233). -/
def execBbr5 (z off : Byte) (s : State) : Host.Outcome State Fault Refusal := branchOnBit 5 false z off s

/-- BBR6 (45_control_flow.md R233). -/
def execBbr6 (z off : Byte) (s : State) : Host.Outcome State Fault Refusal := branchOnBit 6 false z off s

/-- BBR7 (45_control_flow.md R233). -/
def execBbr7 (z off : Byte) (s : State) : Host.Outcome State Fault Refusal := branchOnBit 7 false z off s

/-- BBS0 (45_control_flow.md R234). -/
def execBbs0 (z off : Byte) (s : State) : Host.Outcome State Fault Refusal := branchOnBit 0 true z off s

/-- BBS1 (45_control_flow.md R234). -/
def execBbs1 (z off : Byte) (s : State) : Host.Outcome State Fault Refusal := branchOnBit 1 true z off s

/-- BBS2 (45_control_flow.md R234). -/
def execBbs2 (z off : Byte) (s : State) : Host.Outcome State Fault Refusal := branchOnBit 2 true z off s

/-- BBS3 (45_control_flow.md R234). -/
def execBbs3 (z off : Byte) (s : State) : Host.Outcome State Fault Refusal := branchOnBit 3 true z off s

/-- BBS4 (45_control_flow.md R234). -/
def execBbs4 (z off : Byte) (s : State) : Host.Outcome State Fault Refusal := branchOnBit 4 true z off s

/-- BBS5 (45_control_flow.md R234). -/
def execBbs5 (z off : Byte) (s : State) : Host.Outcome State Fault Refusal := branchOnBit 5 true z off s

/-- BBS6 (45_control_flow.md R234). -/
def execBbs6 (z off : Byte) (s : State) : Host.Outcome State Fault Refusal := branchOnBit 6 true z off s

/-- BBS7 (45_control_flow.md R234). -/
def execBbs7 (z off : Byte) (s : State) : Host.Outcome State Fault Refusal := branchOnBit 7 true z off s

/-- NOP: nothing; the fetch has advanced PC (45_control_flow.md R235). -/
def execNop (s : State) : Host.Outcome State Fault Refusal := .next s

/-- The reserved opcodes: nothing beyond the operand bytes the fetch has read; no access at the effective address
(45_control_flow.md R236, 30_encoding.md R127). -/
def execNopReserved (_r : Reserved) (s : State) : Host.Outcome State Fault Refusal := .next s

end Sys2Proof.Machine
end

