-- ==== Sys2Proof/Machine/IncDec.lean ====
section
/-! DEFINITION. Increment, decrement and flag instructions (spec 44_incdec_flags.md R200 to R212). -/

namespace Sys2Proof.Machine

/-- INC (44_incdec_flags.md R200). -/
def execInc (t : Target) (s : State) : Host.Outcome State Fault Refusal := modify t incByte s

/-- DEC (44_incdec_flags.md R201). -/
def execDec (t : Target) (s : State) : Host.Outcome State Fault Refusal := modify t decByte s

/-- INX (44_incdec_flags.md R202). -/
def execInx (s : State) : Host.Outcome State Fault Refusal := .next ((s.setX (s.x + 1)).setNZ (s.x + 1))

/-- DEX (44_incdec_flags.md R203). -/
def execDex (s : State) : Host.Outcome State Fault Refusal := .next ((s.setX (s.x - 1)).setNZ (s.x - 1))

/-- INY (44_incdec_flags.md R204). -/
def execIny (s : State) : Host.Outcome State Fault Refusal := .next ((s.setY (s.y + 1)).setNZ (s.y + 1))

/-- DEY (44_incdec_flags.md R205). -/
def execDey (s : State) : Host.Outcome State Fault Refusal := .next ((s.setY (s.y - 1)).setNZ (s.y - 1))

/-- CLC (44_incdec_flags.md R206). -/
def execClc (s : State) : Host.Outcome State Fault Refusal := .next (s.setFlag .c false)

/-- SEC (44_incdec_flags.md R207). -/
def execSec (s : State) : Host.Outcome State Fault Refusal := .next (s.setFlag .c true)

/-- CLI (44_incdec_flags.md R208). -/
def execCli (s : State) : Host.Outcome State Fault Refusal := .next (s.setFlag .i false)

/-- SEI (44_incdec_flags.md R209). -/
def execSei (s : State) : Host.Outcome State Fault Refusal := .next (s.setFlag .i true)

/-- CLD (44_incdec_flags.md R210). -/
def execCld (s : State) : Host.Outcome State Fault Refusal := .next (s.setFlag .d false)

/-- SED (44_incdec_flags.md R211). -/
def execSed (s : State) : Host.Outcome State Fault Refusal := .next (s.setFlag .d true)

/-- CLV (44_incdec_flags.md R212). -/
def execClv (s : State) : Host.Outcome State Fault Refusal := .next (s.setFlag .v false)

end Sys2Proof.Machine
end

