-- ==== Sys2Proof/Machine/LoadStore.lean ====
section
/-! DEFINITION. Load and store (spec 40_load_store.md R140 to R146). -/

namespace Sys2Proof.Machine

/-- LDA (40_load_store.md R140). -/
def execLda (o : Source) (s : State) : Host.Outcome State Fault Refusal := withSource o (fun v s => (s.setA v).setNZ v) s

/-- LDX (40_load_store.md R141). -/
def execLdx (o : Source) (s : State) : Host.Outcome State Fault Refusal := withSource o (fun v s => (s.setX v).setNZ v) s

/-- LDY (40_load_store.md R142). -/
def execLdy (o : Source) (s : State) : Host.Outcome State Fault Refusal := withSource o (fun v s => (s.setY v).setNZ v) s

/-- STA (40_load_store.md R143). -/
def execSta (m : MemMode) (s : State) : Host.Outcome State Fault Refusal := store m s.a s

/-- STX (40_load_store.md R144). -/
def execStx (m : MemMode) (s : State) : Host.Outcome State Fault Refusal := store m s.x s

/-- STY (40_load_store.md R145). -/
def execSty (m : MemMode) (s : State) : Host.Outcome State Fault Refusal := store m s.y s

/-- STZ (40_load_store.md R146). -/
def execStz (m : MemMode) (s : State) : Host.Outcome State Fault Refusal := store m 0x00 s

end Sys2Proof.Machine
end

