-- ==== Sys2Proof/Machine/Logic.lean ====
section
/-! DEFINITION. Logic, bit test, shifts and bit manipulation (spec 43_logic_shift.md R180 to R191). -/

namespace Sys2Proof.Machine

/-- AND (43_logic_shift.md R180). -/
def execAnd (o : Source) (s : State) : Host.Outcome State Fault Refusal := withSource o (fun v s => (s.setA (s.a &&& v)).setNZ (s.a &&& v)) s

/-- ORA (43_logic_shift.md R181). -/
def execOra (o : Source) (s : State) : Host.Outcome State Fault Refusal := withSource o (fun v s => (s.setA (s.a ||| v)).setNZ (s.a ||| v)) s

/-- EOR (43_logic_shift.md R182). -/
def execEor (o : Source) (s : State) : Host.Outcome State Fault Refusal := withSource o (fun v s => (s.setA (s.a ^^^ v)).setNZ (s.a ^^^ v)) s

/-- BIT: the immediate form writes Z only, unless `BIT_IMM_FLAGS = nvz` (43_logic_shift.md R183). -/
def execBit (o : Source) (s : State) : Host.Outcome State Fault Refusal :=
  match o with
  | .imm _ =>
    match s.config.bitImmFlags with
    | .zOnly => withSource o (fun v s => s.testZ v) s
    | .nvz => withSource o (fun v s => (s.testZ v).testNV v) s
  | .mem _ => withSource o (fun v s => (s.testZ v).testNV v) s

/-- ASL (43_logic_shift.md R184). -/
def execAsl (t : Target) (s : State) : Host.Outcome State Fault Refusal := modify t aslByte s

/-- LSR (43_logic_shift.md R185). -/
def execLsr (t : Target) (s : State) : Host.Outcome State Fault Refusal := modify t lsrByte s

/-- ROL (43_logic_shift.md R186). -/
def execRol (t : Target) (s : State) : Host.Outcome State Fault Refusal := modify t rolByte s

/-- ROR (43_logic_shift.md R187). -/
def execRor (t : Target) (s : State) : Host.Outcome State Fault Refusal := modify t rorByte s

/-- TRB (43_logic_shift.md R188). -/
def execTrb (m : MemMode) (s : State) : Host.Outcome State Fault Refusal := modifyMemory m trbByte s

/-- TSB (43_logic_shift.md R189). -/
def execTsb (m : MemMode) (s : State) : Host.Outcome State Fault Refusal := modifyMemory m tsbByte s

/-- RMB0 (43_logic_shift.md R190). -/
def execRmb0 (z : Byte) (s : State) : Host.Outcome State Fault Refusal := modifyMemory (.zp z) (rmbByte 0) s

/-- RMB1 (43_logic_shift.md R190). -/
def execRmb1 (z : Byte) (s : State) : Host.Outcome State Fault Refusal := modifyMemory (.zp z) (rmbByte 1) s

/-- RMB2 (43_logic_shift.md R190). -/
def execRmb2 (z : Byte) (s : State) : Host.Outcome State Fault Refusal := modifyMemory (.zp z) (rmbByte 2) s

/-- RMB3 (43_logic_shift.md R190). -/
def execRmb3 (z : Byte) (s : State) : Host.Outcome State Fault Refusal := modifyMemory (.zp z) (rmbByte 3) s

/-- RMB4 (43_logic_shift.md R190). -/
def execRmb4 (z : Byte) (s : State) : Host.Outcome State Fault Refusal := modifyMemory (.zp z) (rmbByte 4) s

/-- RMB5 (43_logic_shift.md R190). -/
def execRmb5 (z : Byte) (s : State) : Host.Outcome State Fault Refusal := modifyMemory (.zp z) (rmbByte 5) s

/-- RMB6 (43_logic_shift.md R190). -/
def execRmb6 (z : Byte) (s : State) : Host.Outcome State Fault Refusal := modifyMemory (.zp z) (rmbByte 6) s

/-- RMB7 (43_logic_shift.md R190). -/
def execRmb7 (z : Byte) (s : State) : Host.Outcome State Fault Refusal := modifyMemory (.zp z) (rmbByte 7) s

/-- SMB0 (43_logic_shift.md R191). -/
def execSmb0 (z : Byte) (s : State) : Host.Outcome State Fault Refusal := modifyMemory (.zp z) (smbByte 0) s

/-- SMB1 (43_logic_shift.md R191). -/
def execSmb1 (z : Byte) (s : State) : Host.Outcome State Fault Refusal := modifyMemory (.zp z) (smbByte 1) s

/-- SMB2 (43_logic_shift.md R191). -/
def execSmb2 (z : Byte) (s : State) : Host.Outcome State Fault Refusal := modifyMemory (.zp z) (smbByte 2) s

/-- SMB3 (43_logic_shift.md R191). -/
def execSmb3 (z : Byte) (s : State) : Host.Outcome State Fault Refusal := modifyMemory (.zp z) (smbByte 3) s

/-- SMB4 (43_logic_shift.md R191). -/
def execSmb4 (z : Byte) (s : State) : Host.Outcome State Fault Refusal := modifyMemory (.zp z) (smbByte 4) s

/-- SMB5 (43_logic_shift.md R191). -/
def execSmb5 (z : Byte) (s : State) : Host.Outcome State Fault Refusal := modifyMemory (.zp z) (smbByte 5) s

/-- SMB6 (43_logic_shift.md R191). -/
def execSmb6 (z : Byte) (s : State) : Host.Outcome State Fault Refusal := modifyMemory (.zp z) (smbByte 6) s

/-- SMB7 (43_logic_shift.md R191). -/
def execSmb7 (z : Byte) (s : State) : Host.Outcome State Fault Refusal := modifyMemory (.zp z) (smbByte 7) s

end Sys2Proof.Machine
end

