-- ==== Sys2Proof/Machine/System.lean ====
section
/-! DEFINITION. System instructions (spec 46_system.md R250 to R254). -/

namespace Sys2Proof.Machine

/-- BRK: PC past the signature byte, which is not read, then the exception entry with B and U set in the pushed copy of P
(46_system.md R250). -/
def execBrk (s : State) : Host.Outcome State Fault Refusal :=
  toOutcome (enterException (statusPushedBySoftware s.p) Config.vecIrq (s.setPc (s.pc + 1)))

/-- RTI (46_system.md R251). -/
def execRti (s : State) : Host.Outcome State Fault Refusal := toOutcome (returnFromException s)

/-- WAI (46_system.md R252). -/
def execWai (s : State) : Host.Outcome State Fault Refusal := .next (s.setWaiting true)

/-- STP (46_system.md R253). -/
def execStp (s : State) : Host.Outcome State Fault Refusal := .next (s.setHalted true)

end Sys2Proof.Machine
end

