-- ==== Sys2Proof/Machine/TransferStack.lean ====
section
/-! DEFINITION. Register transfer and stack (spec 41_transfer_stack.md R150 to R166). -/

namespace Sys2Proof.Machine

/-- TAX (41_transfer_stack.md R150). -/
def execTax (s : State) : Host.Outcome State Fault Refusal := .next ((s.setX s.a).setNZ s.a)

/-- TAY (41_transfer_stack.md R151). -/
def execTay (s : State) : Host.Outcome State Fault Refusal := .next ((s.setY s.a).setNZ s.a)

/-- TXA (41_transfer_stack.md R152). -/
def execTxa (s : State) : Host.Outcome State Fault Refusal := .next ((s.setA s.x).setNZ s.x)

/-- TYA (41_transfer_stack.md R153). -/
def execTya (s : State) : Host.Outcome State Fault Refusal := .next ((s.setA s.y).setNZ s.y)

/-- TSX (41_transfer_stack.md R154). -/
def execTsx (s : State) : Host.Outcome State Fault Refusal := .next ((s.setX s.sp).setNZ s.sp)

/-- TXS: no flag (41_transfer_stack.md R155). -/
def execTxs (s : State) : Host.Outcome State Fault Refusal := .next (s.setSp s.x)

/-- PHA (41_transfer_stack.md R159). -/
def execPha (s : State) : Host.Outcome State Fault Refusal := pushRegister s.a s

/-- PHP (41_transfer_stack.md R160). -/
def execPhp (s : State) : Host.Outcome State Fault Refusal := pushRegister (statusPushedBySoftware s.p) s

/-- PHX (41_transfer_stack.md R163). -/
def execPhx (s : State) : Host.Outcome State Fault Refusal := pushRegister s.x s

/-- PHY (41_transfer_stack.md R164). -/
def execPhy (s : State) : Host.Outcome State Fault Refusal := pushRegister s.y s

/-- PLA (41_transfer_stack.md R161). -/
def execPla (s : State) : Host.Outcome State Fault Refusal := pullRegister (fun v s => (s.setA v).setNZ v) s

/-- PLX (41_transfer_stack.md R165). -/
def execPlx (s : State) : Host.Outcome State Fault Refusal := pullRegister (fun v s => (s.setX v).setNZ v) s

/-- PLY (41_transfer_stack.md R166). -/
def execPly (s : State) : Host.Outcome State Fault Refusal := pullRegister (fun v s => (s.setY v).setNZ v) s

/-- PLP (41_transfer_stack.md R162). -/
def execPlp (s : State) : Host.Outcome State Fault Refusal := pullRegister (fun v s => s.setP (statusPulled v)) s

end Sys2Proof.Machine
end

