-- ==== Sys2Proof/Machine/Cycle.lean ====
section
/-! DEFINITION. One clock cycle (spec 00_scope.md R5): fetching and executing an instruction (30_encoding.md R102), the CPU
step (60_exceptions.md R262), the bus tick (R270). -/

namespace Sys2Proof.Machine

/-- `base_cycles` of an opcode, 1 to 8: the parameter's entry, else the count of the map of 30_encoding.md R125 (decision D2);
BRK's 7 is fixed (00_scope.md R2, 46_system.md R250). -/
def cyclesOf (c : Config) (op : Byte) : Nat :=
  match if op = 0x00 then none else c.baseCycles.lookup op with
  | some n => n + 1
  | none => (opcodeEntry op).cycles

/-- Read the instruction at PC through the bus, opcode first, then its operand bytes in increasing address order, and leave
PC past them (30_encoding.md R102, R104 to R119). The result is the instruction and its declared cycle count. -/
def fetch (s : State) : Except Fault ((Instr × Nat) × State) := do
  let (op, s) ← busRead s.pc s
  let s := s.setPc (s.pc + 1)
  let n := cyclesOf s.config op
  match (opcodeEntry op).form with
  | .f1 i => .ok ((i, n), s)
  | .f2Skip i => .ok ((i, n), s.setPc (s.pc + 1))
  | .f2 mk => do
    let (b, s) ← busRead s.pc s
    .ok ((mk b, n), s.setPc (s.pc + 1))
  | .f3 mk => do
    let (b1, s) ← busRead s.pc s
    let (b2, s) ← busRead (s.pc + 1) s
    .ok ((mk b1 b2, n), s.setPc (s.pc + 2))

/-- The next state of an outcome changed by `f`. -/
def mapNext (f : State → State) : Host.Outcome State Fault Refusal → Host.Outcome State Fault Refusal
  | .next s => .next (f s)
  | .fault r => .fault r
  | .refused r => .refused r

/-- `ExecuteInstruction()` (30_encoding.md R102). -/
def executeInstruction (s : State) : Host.Outcome State Fault Refusal :=
  match fetch s with
  | .ok ((i, n), s) => mapNext (fun t => t.setPendingCycles n) (exec i s)
  | .error f => .fault f

/-- One residual cycle: `pending_cycles` counted down, not below 0 (60_exceptions.md R262). -/
def spendCycle (s : State) : State := s.setPendingCycles (s.pendingCycles - 1)

/-- Step 4 of `CpuStep` before its last line: RESET, then NMI, then IRQ unless I, then an instruction
(60_exceptions.md R262, R265). -/
def serviceBoundary (s : State) : Host.Outcome State Fault Refusal :=
  if s.resetPending then toOutcome (resetSequence 7 s)
  else if s.nmiPending then toOutcome (interruptSequence Config.vecNmi (s.setNmiPending false))
  else if s.irqPending && !s.flag .i then toOutcome (interruptSequence Config.vecIrq (s.setIrqPending false))
  else executeInstruction s

/-- Any of the three pending latches (60_exceptions.md R264). -/
def State.anyPending (s : State) : Bool := s.resetPending || s.nmiPending || s.irqPending

/-- `CpuStep()` (60_exceptions.md R262). -/
def cpuStep (s : State) : Host.Outcome State Fault Refusal :=
  if s.halted && !s.resetPending then .next (spendCycle s)
  else if s.waiting && !s.anyPending then .next s
  else if 0 < s.pendingCycles then .next (spendCycle (s.setWaiting false))
  else mapNext spendCycle (serviceBoundary (s.setWaiting false))

/-- One peripheral's turn in `BusTick`: tick, sample the line, request an IRQ on a rising edge (60_exceptions.md R270). -/
def tickDevice (s : State) (d : Device) : State :=
  match d with
  | .via =>
    let v := s.via.tick
    ((s.setVia v).setIrqPending (s.irqPending || (v.hasIrq && !s.lastIrqVia))).setLastIrqVia v.hasIrq
  | .acia =>
    let v := s.acia.tick s.config.aciaRxCapacity
    ((s.setAcia v).setIrqPending (s.irqPending || (v.hasIrq && !s.lastIrqAcia))).setLastIrqAcia v.hasIrq

/-- `BusTick()`: each peripheral in registration order (60_exceptions.md R270). -/
def busTick (s : State) : State := (peripherals s.config).foldl tickDevice s

/-- `Cycle()` (00_scope.md R5): the CPU step, the bus tick, and one more cycle counted. -/
def cycle (s : State) : Host.Outcome State Fault Refusal :=
  mapNext (fun t => (busTick t).setCycleCount (t.cycleCount + 1)) (cpuStep s)

/-- The given bytes stored from address `a` up. -/
def storeBytes (m : Memory) (a : Addr) : List Byte → Memory
  | [] => m
  | b :: rest => storeBytes (m.write a.toNat b) (a + 1) rest

/-- Where the next instruction is placed: at PC, or at the start of ROM if PC and the two addresses after it are not all RAM
or ROM. -/
def fetchAddress (s : State) : Addr :=
  if isPlain s.pc && isPlain (s.pc + 1) && isPlain (s.pc + 2) then s.pc else 0x8000

/-- `s` with the bytes stored where the next fetch reads them, and nothing in the way of that fetch: no residual cycle, not
stopped, no interrupt that would be serviced first, no host action due before the cycle. -/
def placeInstruction (bytes : List Byte) (s : State) : State :=
  let s := (s.setMem (storeBytes s.mem (fetchAddress s) bytes)).setPc (fetchAddress s)
  let s := ((s.setPendingCycles 0).setWaiting false).setHalted false
  let s := ((s.setResetPending false).setNmiPending false).setIrqPending (s.irqPending && s.flag .i)
  s.setHostInput (match s.hostInput with
    | [] => []
    | _ :: later => [] :: later)

end Sys2Proof.Machine
end

