-- ==== Sys2Proof/Machine/Environment.lean ====
section
/-! DEFINITION. The host's actions between two cycles (spec 10_state.md R38), power-on (R39) and the outputs (R37). -/

namespace Sys2Proof.Machine

/-- `PowerOn(rom_image)`: the values of 10_state.md R39, with the images placed in ROM (20_memory.md R72). The parameters
and the host's later actions are not part of what it establishes and are taken as given (log 2). DESIGN CHOICE (log 13): serial
bytes supplied before it and not yet taken are dropped; the spec leaves open what becomes of them. -/
def State.powerOn (c : Config) (images : List (Addr × List Byte)) (later : List (List HostAction)) : State where
  config := c
  a := 0
  x := 0
  y := 0
  sp := c.spPowerOn
  pc := 0x0000
  p := 0x00
  resetPending := false
  nmiPending := false
  nmiLastHigh := true
  irqPending := false
  waiting := false
  halted := false
  pendingCycles := 0
  lastIrqVia := false
  lastIrqAcia := false
  mem := Memory.loadImages [] images
  via := c.viaPowerOn
  acia := Acia.powerOn c
  cycleCount := 0
  hostInput := later

/-- `SetNmiLine(level)`: a high-to-low change sets `nmi_pending`; `nmi_last_high` follows the level (10_state.md R38,
60_exceptions.md R273). -/
def State.setNmiLine (high : Bool) (s : State) : State :=
  (s.setNmiPending (s.nmiPending || (s.nmiLastHigh && !high))).setNmiLastHigh high

/-- The effect of one host action (10_state.md R38). With no ACIA on the bus there is no serial input
(60_exceptions.md R333). -/
def HostAction.perform (h : HostAction) (s : State) : Except Fault State :=
  match h with
  | .powerOn images => .ok (State.powerOn s.config images s.hostInput)
  | .resetImmediate => resetSequence 0 s
  | .requestReset => .ok (s.setResetPending true)
  | .setNmiLine high => .ok (s.setNmiLine high)
  | .setPortAInput v => .ok (s.setVia (s.via.setPortA v))
  | .setPortBInput v => .ok (s.setVia (s.via.setPortB v))
  | .supplyRx bytes => .ok (if s.config.aciaPresent then s.setAcia (s.acia.supply bytes) else s)

/-- Several host actions, in order. -/
def performAll : List HostAction → State → Except Fault State
  | [], s => .ok s
  | h :: rest, s => do
    let s ← h.perform s
    performAll rest s

/-- The host's actions due before this cycle, taken from `hostInput` and performed (10_state.md R38, log 2). -/
def performDue (s : State) : Except Fault State :=
  match s.hostInput with
  | [] => .ok s
  | now :: later => performAll now (s.setHostInput later)

end Sys2Proof.Machine
end

