-- ==== Sys2Proof/Machine/Step.lean ====
section
/-! DEFINITION. One step of the machine: the host's actions due before the cycle (spec 10_state.md R38, log 2), then one
`Cycle` (00_scope.md R5). -/

namespace Sys2Proof.Machine

/-- One step (00_scope.md R5, 10_state.md R38). -/
def step (s : State) : Host.Outcome State Fault Refusal :=
  match performDue s with
  | .ok s => cycle s
  | .error f => .fault f

/-- `s` with an opcode-table word's bytes stored where `step` fetches its next instruction (log 3). -/
def State.withFetchWord (s : State) (nbits w : Nat) : State := placeInstruction (wordBytes nbits w) s

end Sys2Proof.Machine
end

