-- ==== Sys2Proof/Safety.lean ====
section
/-! DEFINITION. The terms that claims are stated in: registers by name, one byte of memory, what an instruction leaves
unchanged, where a byte written over the bus lands, the invariant every step keeps, the end of a run. -/

namespace Sys2Proof.Machine

/-- The 8-bit registers of the CPU other than P (10_state.md R20, R24). -/
inductive Reg where
  | a | x | y | sp
  deriving DecidableEq, Repr

/-- A register's value. -/
def State.reg (r : Reg) (s : State) : Byte :=
  match r with
  | .a => s.a
  | .x => s.x
  | .y => s.y
  | .sp => s.sp

/-- The byte of RAM or ROM at an address (10_state.md R30, R31); no access is made. -/
def State.byteAt (a : Addr) (s : State) : Byte := s.mem.read a.toNat

/-- The three bytes from an address up. -/
def State.bytesAt (a : Addr) (s : State) : List Byte := [s.byteAt a, s.byteAt (a + 1), s.byteAt (a + 2)]

/-- The little-endian word at an address of RAM or ROM (20_memory.md R61). -/
def State.wordAt (a : Addr) (s : State) : Addr := wordOf (s.byteAt (a + 1)) (s.byteAt a)

/-! ## Fetching -/

/-- How many operand bytes the fetch of an opcode reads; the skipped byte of a reserved immediate slot is not read
(30_encoding.md R102, R127). -/
def operandsRead (op : Byte) : Nat :=
  match (opcodeEntry op).form with
  | .f1 _ | .f2Skip _ => 0
  | .f2 _ => 1
  | .f3 _ => 2

/-- `n` bus reads at increasing addresses from `a`: the bytes, and the machine after the reads' side effects (20_memory.md R77). -/
def readBytes : Nat → Addr → State → Except Fault (List Byte × State)
  | 0, _, s => .ok ([], s)
  | n + 1, a, s => do
    let (b, s) ← busRead a s
    let (bytes, s) ← readBytes n (a + 1) s
    .ok (b :: bytes, s)

/-! ## Frames -/

/-- The latches, counters, parameters and host queue, none of which an instruction's own effect changes
(10_state.md R27 to R29). -/
structure SameControl (s t : State) : Prop where
  config        : t.config = s.config
  resetPending  : t.resetPending = s.resetPending
  nmiPending    : t.nmiPending = s.nmiPending
  nmiLastHigh   : t.nmiLastHigh = s.nmiLastHigh
  irqPending    : t.irqPending = s.irqPending
  waiting       : t.waiting = s.waiting
  halted        : t.halted = s.halted
  pendingCycles : t.pendingCycles = s.pendingCycles
  lastIrqVia    : t.lastIrqVia = s.lastIrqVia
  lastIrqAcia   : t.lastIrqAcia = s.lastIrqAcia
  cycleCount    : t.cycleCount = s.cycleCount
  hostInput     : t.hostInput = s.hostInput

/-- Every byte of memory reads as before. -/
def SameMemory (s t : State) : Prop := ∀ a, t.byteAt a = s.byteAt a

/-- Every device register is as before. -/
def SameDevices (s t : State) : Prop := t.via = s.via ∧ t.acia = s.acia

/-- Of the CPU's registers, flags and latches, only those listed may differ; PC is left to the rest of the statement. -/
structure CpuFrame (rs : List Reg) (fs : List Flag) (s t : State) : Prop where
  reg     : ∀ r, r ∉ rs → t.reg r = s.reg r
  flag    : ∀ f, f ∉ fs → t.flag f = s.flag f
  control : SameControl s t

/-- `t` comes from `s` by an effect on the listed registers and flags alone. Memory is as in `s`; the devices are as in `u`,
the machine after the instruction's read (`s` itself for one that reads nothing). -/
structure RegisterEffect (rs : List Reg) (fs : List Flag) (s u t : State) : Prop where
  cpu     : CpuFrame rs fs s t
  pc      : t.pc = s.pc
  memory  : SameMemory s t
  devices : SameDevices u t

/-- As `RegisterEffect`, for an instruction that transfers control to `target`. -/
structure JumpEffect (target : Addr) (rs : List Reg) (fs : List Flag) (s u t : State) : Prop where
  cpu     : CpuFrame rs fs s t
  pc      : t.pc = target
  memory  : SameMemory s t
  devices : SameDevices u t

/-- `t` comes from `s` by pushing the bytes, the first at 0x0100 + SP and each next one at the SP below it; devices and every
other byte are as before (41_transfer_stack.md R156). -/
structure Pushed (bytes : List Byte) (s t : State) : Prop where
  sp        : t.sp = s.sp - BitVec.ofNat 8 bytes.length
  byte      : ∀ k, (h : k < bytes.length) → t.byteAt (stackAddr (s.sp - BitVec.ofNat 8 k)) = bytes[k]
  elsewhere : ∀ b, (∀ k, k < bytes.length → b ≠ stackAddr (s.sp - BitVec.ofNat 8 k)) → t.byteAt b = s.byteAt b
  devices   : SameDevices s t

/-- The byte that the n-th pull from here gives, n from 1 (41_transfer_stack.md R157). -/
def State.stacked (n : Nat) (s : State) : Byte := s.byteAt (stackAddr (s.sp + BitVec.ofNat 8 n))

/-- Z and N are those of the byte `v` (10_state.md R25). -/
def FlagsNZ (v : Byte) (t : State) : Prop := t.flag .z = decide (v.toNat = 0) ∧ t.flag .n = decide (128 ≤ v.toNat)

/-- `t` is `s` after the byte `v` has been written at `ea` over the bus, the CPU apart: no other byte of memory changes, RAM
stores it, ROM drops it, a device takes it by its register's write rule (20_memory.md R67). -/
structure WrittenAt (ea : Addr) (v : Byte) (s t : State) : Prop where
  elsewhere : ∀ b, b ≠ ea → t.byteAt b = s.byteAt b
  ram       : isRam ea = true → t.byteAt ea = v ∧ SameDevices s t
  rom       : isRom ea = true → t.byteAt ea = s.byteAt ea ∧ SameDevices s t
  via       : deviceAt s.config ea = some .via →
    t.via = s.via.write (.ofAddr ea) v ∧ t.acia = s.acia ∧ SameMemory s t
  acia      : deviceAt s.config ea = some .acia →
    t.acia = s.acia.write s.config (.ofAddr ea) v ∧ t.via = s.via ∧ SameMemory s t

/-- `t` comes from `s` by one write of `v` at `ea` and the listed flags; `u` is the machine after the read before it
(`s` itself where nothing is read), so a device at `ea` has taken the read and then the write. -/
structure WriteEffect (ea : Addr) (v : Byte) (fs : List Flag) (s u t : State) : Prop where
  cpu     : CpuFrame [] fs s t
  pc      : t.pc = s.pc
  read    : SameMemory s u
  written : WrittenAt ea v u t

/-- The operand can be read: an immediate byte, or a mapped address (20_memory.md R69). -/
def State.canRead (s : State) (o : Source) : Prop :=
  match o with
  | .imm _ => True
  | .mem m => ∃ ea, effectiveAddress m s = .ok (ea, s) ∧ mapped s.config ea = true

/-- The instruction reads its operand once, giving `v` and the machine after the read `u`, and then completes in a state
related to them. -/
def CompletesAfterRead (i : Instr) (o : Source) (s : State) (post : Byte → State → State → Prop) : Prop :=
  ∃ v u t, readSource o s = .ok (v, u) ∧ exec i s = .next t ∧ post v u t

/-- The instruction completes in a state with the property `post`. -/
def Completes (i : Instr) (s : State) (post : State → Prop) : Prop := ∃ t, exec i s = .next t ∧ post t

/-- The instruction reads the byte at `ea` once and writes once a byte back there. -/
def CompletesModify (i : Instr) (ea : Addr) (s : State) (post : Byte → State → State → Prop) : Prop :=
  ∃ v u t, busRead ea s = .ok (v, u) ∧ exec i s = .next t ∧ post v u t

/-- The numbers 0 and 1 of a flag. -/
def State.carryIn (s : State) : Nat := if s.flag .c then 1 else 0

/-- The number that a byte of two decimal digits stands for (42_arithmetic.md R177). -/
def bcdValue (v : Byte) : Nat := 10 * (v.toNat / 16) + v.toNat % 16

/-- The instructions that write each flag (10_state.md R26); N and V of BIT immediate only under `BIT_IMM_FLAGS = nvz`
(43_logic_shift.md R183). -/
def writesFlag (c : Config) (f : Flag) (i : Instr) : Bool :=
  let pulled := match i with
    | .plp | .rti => true
    | _ => false
  let nz := match i with
    | .lda _ | .ldx _ | .ldy _ | .tax | .tay | .txa | .tya | .tsx | .pla | .plx | .ply => true
    | .adc _ | .sbc _ | .cmp _ | .cpx _ | .cpy _ | .and _ | .ora _ | .eor _ => true
    | .asl _ | .lsr _ | .rol _ | .ror _ | .inc _ | .dec _ | .inx | .dex | .iny | .dey => true
    | _ => false
  let bitNV := match i with
    | .bit (.mem _) => true
    | .bit (.imm _) => c.bitImmFlags == .nvz
    | _ => false
  pulled || match f with
    | .c => match i with
      | .adc _ | .sbc _ | .cmp _ | .cpx _ | .cpy _ | .asl _ | .lsr _ | .rol _ | .ror _ | .clc | .sec => true
      | _ => false
    | .z => nz || match i with
      | .bit _ | .trb _ | .tsb _ => true
      | _ => false
    | .i => match i with
      | .sei | .cli | .brk => true
      | _ => false
    | .d => match i with
      | .sed | .cld => true
      | _ => false
    | .b | .u => false
    | .v => bitNV || match i with
      | .adc _ | .sbc _ | .clv => true
      | _ => false
    | .n => nz || bitNV

/-- The instructions that write SP (10_state.md R24). -/
def writesSp : Instr → Bool
  | .txs | .pha | .php | .phx | .phy | .pla | .plp | .plx | .ply | .jsr _ | .rts | .brk | .rti => true
  | _ => false

/-- The instructions that write PC beyond the fetch (10_state.md R21). -/
def writesPc : Instr → Bool
  | .jmp _ | .jsr _ | .rts | .rti | .brk => true
  | .bpl _ | .bmi _ | .bvc _ | .bvs _ | .bcc _ | .bcs _ | .bne _ | .beq _ | .bra _ => true
  | .bbr0 _ _ | .bbr1 _ _ | .bbr2 _ _ | .bbr3 _ _ | .bbr4 _ _ | .bbr5 _ _ | .bbr6 _ _ | .bbr7 _ _ => true
  | .bbs0 _ _ | .bbs1 _ _ | .bbs2 _ _ | .bbs3 _ _ | .bbs4 _ _ | .bbs5 _ _ | .bbs6 _ _ | .bbs7 _ _ => true
  | _ => false

/-! ## Runs -/

/-- A host action that leaves the CPU's registers alone: neither a power-on nor a reset. -/
def HostAction.leavesCpu : HostAction → Bool
  | .powerOn _ | .resetImmediate | .requestReset => false
  | .setNmiLine _ | .setPortAInput _ | .setPortBInput _ | .supplyRx _ => true

/-- Every host action to come leaves the CPU's registers alone. -/
def State.hostLeavesCpu (s : State) : Prop := ∀ l ∈ s.hostInput, ∀ h ∈ l, h.leavesCpu = true

/-- No host action is due before the next cycle. -/
def State.quiet (s : State) : Prop := s.hostInput.headD [] = []

/-- An instruction boundary at which the next step executes an instruction: nothing pending that would be serviced
(60_exceptions.md R262, glossary of 00_scope.md). -/
structure State.ready (s : State) : Prop where
  halted        : s.halted = false
  waiting       : s.waiting = false
  pendingCycles : s.pendingCycles = 0
  resetPending  : s.resetPending = false
  nmiPending    : s.nmiPending = false
  irqMasked     : s.irqPending = true → s.flag .i = true

/-- The end of a run: `halted = true and pending_cycles = 0` (00_scope.md R8). -/
def State.isFinal (s : State) : Bool := s.halted && s.pendingCycles == 0

/-- The CPU's registers and memory agree. -/
structure SameCpuAndMemory (s t : State) : Prop where
  a   : t.a = s.a
  x   : t.x = s.x
  y   : t.y = s.y
  sp  : t.sp = s.sp
  pc  : t.pc = s.pc
  p   : t.p = s.p
  mem : t.mem = s.mem

/-- INVARIANT of the machine between two steps (10_state.md R28, R30, R31, 60_exceptions.md R270, R277, R315, R317, R327,
R328, 70_reset_and_hazards.md R357). -/
structure Inv (s : State) : Prop where
  /-- the power-on values, were the machine powered on again, set no interrupt flag (R317) -/
  powerOnIfr    : s.config.viaPowerOn.ifr = 0
  /-- memory is in canonical form, all of it in RAM or ROM -/
  memWf         : s.mem.wf
  memInMap      : s.mem.inMap
  /-- R28 -/
  pendingCycles : s.pendingCycles ≤ 8
  /-- R277: "`halted` and `waiting` are therefore never both true" -/
  runState      : ¬(s.halted = true ∧ s.waiting = true)
  /-- R317: IFR bits 0 to 4 are 0 for ever -/
  ifrLow        : s.via.ifr &&& 0x1F = 0
  /-- R315: bit 7 of IFR is the summary -/
  summary       : s.via.ifr.getLsbD 7 = decide (s.via.ifr.setWidth 7 &&& s.via.ier ≠ 0)
  /-- R270: the line last sampled is the line -/
  lastIrqVia    : s.lastIrqVia = s.via.hasIrq
  lastIrqAcia   : s.config.aciaPresent = true → s.lastIrqAcia = s.acia.hasIrq
  /-- R327: TDRE is 1, the bits without a setter are 0 -/
  aciaStatus    : s.acia.status &&& 0xF3 = 0x10
  /-- R357: RDRF is 1 exactly when the FIFO is not empty -/
  rdrf          : s.acia.status.getLsbD 3 = !s.acia.rxFifo.isEmpty
  /-- R328 -/
  rxCapacity    : s.acia.rxFifo.length ≤ s.config.aciaRxCapacity

/-- The machine with the stored bits B and U of P cleared: what a program can observe (10_state.md R23). -/
def State.withoutBU (s : State) : State := s.setP (s.p &&& 0xCF)

end Sys2Proof.Machine
end

