-- ==== Sys2Proof/Certificates/Slice0/Obligations.lean ====
section
/-! DEFINITION. The statements for the provers. Every statement is about every state, reached by a run or not, unless a premise
says otherwise. The opcode bytes, modes and cycle counts are the spec's general knowledge (G1 to G4, log 9, log 10); where
a clause follows one of the spec's own decisions D1 to D31 the docstring names it (log 12). -/

open Sys2Proof Sys2Proof.Machine

/-! ## Encoding -/

/-- Decoding the encoding of any well-formed instruction gives it back with every operand, whatever bytes follow. -/
def Obligations.DecodeOfEncode : Prop :=
  ∀ (i : Instr) (rest : List Byte), i.wellFormed = true → decode (encode i ++ rest) = .ok (i, rest)

/-- Whatever decodes is well formed and was read from exactly its encoding (R100); the one byte the decoder does not look at
is the skipped byte of a reserved immediate slot (R127). -/
def Obligations.EncodeOfDecode : Prop :=
  ∀ (bytes rest : List Byte) (i : Instr), decode bytes = .ok (i, rest) →
    i.wellFormed = true ∧ bytes.length = i.length + rest.length ∧ 1 ≤ i.length ∧ i.length ≤ 3 ∧
    (bytes = encode i ++ rest ∨ ∃ op skipped, i = .nopReserved (.imm op) ∧ bytes = [op, skipped] ++ rest)

/-- The opcode byte alone decides the length, and every opcode is defined (R100, R128): with that many bytes decoding succeeds,
with fewer it fails. -/
def Obligations.DecodingIsTotal : Prop :=
  ∀ (op : Byte) (operands : List Byte),
    (opcodeEntry op).form.operandBytes ≤ 2 ∧
    ((opcodeEntry op).form.operandBytes ≤ operands.length →
      ∃ i, decode (op :: operands) = .ok (i, operands.drop (opcodeEntry op).form.operandBytes)) ∧
    (operands.length < (opcodeEntry op).form.operandBytes → decode (op :: operands) = .error (.missingOperand op))

/-- Words written out from the map R125, one of each family: LDA #, STA abs, PLP, SBC (zp),Y, ROR A, DEC abs,X, JMP (abs,X),
BBS3, BRK, and the reserved 0x5C. -/
def Obligations.SpecWordsDecode : Prop :=
  decode [0xA9, 0xFF] = .ok (.lda (.imm 0xFF), []) ∧
  decode [0x8D, 0x02, 0x60] = .ok (.sta (.abs 0x6002), []) ∧
  decode [0x28] = .ok (.plp, []) ∧
  decode [0xF1, 0x20] = .ok (.sbc (.mem (.izy 0x20)), []) ∧
  decode [0x6A] = .ok (.ror .acc, []) ∧
  decode [0xDE, 0x34, 0x12] = .ok (.dec (.mem (.abx 0x1234)), []) ∧
  decode [0x7C, 0x00, 0x02] = .ok (.jmp (.iax 0x0200), []) ∧
  decode [0xBF, 0x10, 0x05] = .ok (.bbs3 0x10 0x05, []) ∧
  decode [0x00, 0x77] = .ok (.brk, [0x77]) ∧
  decode [0x5C, 0x34, 0x12] = .ok (.nopReserved (.abs 0x5C 0x1234), [])

/-- The counts of the map are 1 to 8 cycles; 8 only for the reserved opcode 0x5C, 1 only for reserved one-byte opcodes; BRK
takes 7; and they are the counts charged under the default parameters, BRK's under all (R2, R125, R279, R361). -/
def Obligations.CycleCounts : Prop :=
  ∀ i : Instr, i.wellFormed = true →
    1 ≤ i.cycles ∧ i.cycles ≤ 8 ∧
    (i.cycles = 8 → ∃ w, i = .nopReserved (.abs 0x5C w)) ∧
    (i.cycles = 1 ↔ ∃ op, i = .nopReserved (.imp op)) ∧
    (i = .brk → i.cycles = 7) ∧
    ∀ op, i.opcode = some op → cyclesOf defaultConfig op = i.cycles ∧ ∀ c : Config, i = .brk → cyclesOf c op = 7

/-! ## Bus, memory, stack -/

/-- R66: a bus read goes to the device that claims the address, else to ROM, else to RAM, else it fails. Only a device read may
change state. -/
def Obligations.BusReadRule : Prop :=
  ∀ (a : Addr) (s : State),
    (deviceAt s.config a = some .via →
      busRead a s = .ok ((s.via.read (.ofAddr a)).1, s.setVia (s.via.read (.ofAddr a)).2)) ∧
    (deviceAt s.config a = some .acia →
      busRead a s = .ok ((s.acia.read s.config (.ofAddr a)).1, s.setAcia (s.acia.read s.config (.ofAddr a)).2)) ∧
    (0x8000 ≤ a.toNat ∨ a.toNat ≤ 0x3FFF → busRead a s = .ok (s.byteAt a, s)) ∧
    (deviceAt s.config a = none → 0x3FFF < a.toNat → a.toNat < 0x8000 → busRead a s = .error (.outOfRange a))

/-- R67: a bus write goes to the device that claims the address; to ROM it is dropped; RAM stores the byte and a read then
yields it; anywhere else it fails. Nothing else changes. -/
def Obligations.BusWriteRule : Prop :=
  ∀ (a : Addr) (v : Byte) (s : State), s.mem.wf →
    (mapped s.config a = true → ∃ t, busWrite a v s = .ok t ∧ WriteEffect a v [] s s t) ∧
    (a.toNat ≤ 0x3FFF → ∃ t, busWrite a v s = .ok t ∧ busRead a t = .ok (v, t)) ∧
    (0x8000 ≤ a.toNat → busWrite a v s = .ok s) ∧
    (deviceAt s.config a = none → 0x3FFF < a.toNat → a.toNat < 0x8000 → busWrite a v s = .error (.outOfRange a))

/-- R75: a read changes the state at 0x5000, 0x6001, 0x6004 and 0x6008 only, and there exactly as R321, R301, R303, R307 say. -/
def Obligations.ReadSideEffects : Prop :=
  ∀ (a : Addr) (v : Byte) (s t : State), busRead a s = .ok (v, t) →
    (a ≠ 0x5000 → a ≠ 0x6001 → a ≠ 0x6004 → a ≠ 0x6008 → t = s) ∧
    (a = 0x5000 → t = { s with acia := { s.acia with
      rxFifo := s.acia.rxFifo.tail
      status := if s.acia.rxFifo.length = 1 then s.acia.status &&& 0xF7 else s.acia.status } }) ∧
    (a = 0x6001 → t = { s with via := { s.via with ifr := s.via.ifr &&& 0xFC } }) ∧
    (a = 0x6004 → t = { s with via := { s.via with ifr := s.via.ifr &&& 0xBF } }) ∧
    (a = 0x6008 → t = { s with via := { s.via with ifr := s.via.ifr &&& 0xDF } })

/-- Which device answers which address (R64, R65, R85, R333), and that an access to any other address below 0x8000 and above RAM is
the fault that names the address: on the bus, in every instruction with a memory operand, and in JMP through a pointer
with an unmapped byte, which names the first such byte (R68, R69, R280, R283; decisions D3, D4). -/
def Obligations.AddressMap : Prop :=
  (∀ (c : Config) (a : Addr),
    (deviceAt c a = some .via ↔ 0x6000 ≤ a.toNat ∧ a.toNat ≤ 0x600F) ∧
    (deviceAt c a = some .acia ↔ c.aciaPresent = true ∧ 0x5000 ≤ a.toNat ∧ a.toNat ≤ 0x5003) ∧
    (0x6000 ≤ a.toNat → a.toNat ≤ 0x600F →
      [ViaReg.orb, .ora, .ddrb, .ddra, .t1cL, .t1cH, .t1lL, .t1lH, .t2cL, .t2cH, .sr, .acr, .pcr, .ifr, .ier, .oraNh][a.toNat - 0x6000]? =
        some (.ofAddr a)) ∧
    (0x5000 ≤ a.toNat → a.toNat ≤ 0x5003 →
      [AciaReg.data, .status, .command, .control][a.toNat - 0x5000]? = some (.ofAddr a)) ∧
    (mapped c a = false ↔
      (0x4000 ≤ a.toNat ∧ a.toNat ≤ 0x4FFF) ∨ (0x5004 ≤ a.toNat ∧ a.toNat ≤ 0x5FFF) ∨
      (0x6010 ≤ a.toNat ∧ a.toNat ≤ 0x7FFF) ∨ (c.aciaPresent = false ∧ 0x5000 ≤ a.toNat ∧ a.toNat ≤ 0x5003))) ∧
  (∀ (a : Addr) (v : Byte) (s : State), mapped s.config a = false →
    busRead a s = .error (.outOfRange a) ∧ busWrite a v s = .error (.outOfRange a)) ∧
  (∀ (m : MemMode) (s : State) (ea : Addr), effectiveAddress m s = .ok (ea, s) → mapped s.config ea = false →
    (∀ mk ∈ [Instr.lda, .ldx, .ldy, .adc, .sbc, .cmp, .cpx, .cpy, .and, .ora, .eor, .bit],
      exec (mk (.mem m)) s = .fault (.outOfRange ea)) ∧
    (∀ mk ∈ [Instr.sta, .stx, .sty, .stz, .trb, .tsb], exec (mk m) s = .fault (.outOfRange ea)) ∧
    (∀ mk ∈ [Instr.asl, .lsr, .rol, .ror, .inc, .dec], exec (mk (.mem m)) s = .fault (.outOfRange ea))) ∧
  (∀ (w : Addr) (s : State), ∀ p ∈ [(JumpMode.ind w, w.toNat), (.iax w, (w.toNat + s.x.toNat) % 65536)],
    (let first := BitVec.ofNat 16 p.2
     let second := BitVec.ofNat 16 ((p.2 + 1) % 65536)
     (mapped s.config first = false → exec (.jmp p.1) s = .fault (.outOfRange first)) ∧
     (mapped s.config first = true → mapped s.config second = false → exec (.jmp p.1) s = .fault (.outOfRange second))))

/-- R68: ReadWord is two bus reads, low byte first (the order is the spec's inference), the second address wrapping. -/
def Obligations.ReadWordRule : Prop :=
  ∀ (a : Addr) (s : State), mapped s.config a = true → mapped s.config (a + 1) = true →
    ∃ lo hi u t, busRead a s = .ok (lo, u) ∧ busRead (BitVec.ofNat 16 ((a.toNat + 1) % 65536)) u = .ok (hi, t) ∧
      ∃ w, readWord a s = .ok (w, t) ∧ w.toNat = hi.toNat * 256 + lo.toNat

/-- R72: byte i of an image goes to `load + i`; a byte above 0xFFFF is discarded, one below 0x8000 ignored; nothing else
changes. Of several images, the last one that has a byte for an address gives it (a later image overwriting an earlier one is
the spec's inference). -/
def Obligations.RomImagePlacement : Prop :=
  ∀ (m : Memory) (load : Addr) (bytes : List Byte) (k : Nat), m.wf → k < 65536 →
    (m.loadImage load.toNat bytes).read k =
      (if 0x8000 ≤ k ∧ load.toNat ≤ k then (bytes[k - load.toNat]?).getD (m.read k) else m.read k) ∧
    ∀ images : List (Addr × List Byte), (m.loadImages images).read k =
      if 0x8000 ≤ k then
        (images.reverse.findSome? fun i => if i.1.toNat ≤ k then i.2[k - i.1.toNat]? else none).getD (m.read k)
      else m.read k

/-- R156, R157, R158: what Push, Pull, PushWord and PullWord do at every SP, the wrap included, and that a pull after a push
returns what was pushed and restores SP. -/
def Obligations.StackPrimitives : Prop :=
  ∀ (v : Byte) (w : Addr) (s : State), s.mem.wf →
    (∃ t, push v s = .ok t ∧ Pushed [v] s t ∧ t.sp.toNat = (s.sp.toNat + 255) % 256 ∧
      ∃ u, pull t = .ok (v, u) ∧ u.sp = s.sp) ∧
    (∃ t, pull s = .ok (s.byteAt (0x0100 + (s.sp + 1).setWidth 16), t) ∧ t.sp.toNat = (s.sp.toNat + 1) % 256 ∧
      SameMemory s t ∧ SameDevices s t) ∧
    (∃ t, pushWord w s = .ok t ∧ Pushed [hiByte w, loByte w] s t ∧ ∃ u, pullWord t = .ok (w, u) ∧ u.sp = s.sp) ∧
    (∃ t, pullWord s = .ok (wordOf (s.stacked 2) (s.stacked 1), t) ∧ t.sp = s.sp + 2)

/-- R104 to R115: the address of every memory mode, computed without any side effect; a zero-page sum and a zero-page pointer
wrap in the page, a 16-bit sum modulo 65536. The byte of a read operand is the immediate byte or the bus read at that address. -/
def Obligations.EffectiveAddresses : Prop :=
  ∀ (z : Byte) (w : Addr) (s : State),
    (let zpx := BitVec.ofNat 16 ((z.toNat + s.x.toNat) % 256)
     let zpy := BitVec.ofNat 16 ((z.toNat + s.y.toNat) % 256)
     let ptr := fun p : Nat => (s.byteAt (BitVec.ofNat 16 ((p + 1) % 256))).toNat * 256 + (s.byteAt (BitVec.ofNat 16 p)).toNat
     effectiveAddress (.zp z) s = .ok (BitVec.ofNat 16 z.toNat, s) ∧
     effectiveAddress (.zpx z) s = .ok (zpx, s) ∧
     effectiveAddress (.zpy z) s = .ok (zpy, s) ∧
     effectiveAddress (.abs w) s = .ok (w, s) ∧
     effectiveAddress (.abx w) s = .ok (BitVec.ofNat 16 ((w.toNat + s.x.toNat) % 65536), s) ∧
     effectiveAddress (.aby w) s = .ok (BitVec.ofNat 16 ((w.toNat + s.y.toNat) % 65536), s) ∧
     effectiveAddress (.izx z) s = .ok (BitVec.ofNat 16 (ptr zpx.toNat), s) ∧
     effectiveAddress (.izy z) s = .ok (BitVec.ofNat 16 ((ptr z.toNat + s.y.toNat) % 65536), s) ∧
     effectiveAddress (.izp z) s = .ok (BitVec.ofNat 16 (ptr z.toNat), s)) ∧
    readSource (.imm z) s = .ok (z, s) ∧
    (∀ m ea, effectiveAddress m s = .ok (ea, s) → readSource (.mem m) s = busRead ea s)

/-! ## Instructions: load, store, transfer, stack -/

/-- LDA, LDX, LDY complete on every readable operand: the register takes the byte, Z and N follow it, nothing else changes but
what the read itself does to a device (R140 to R142). -/
def Obligations.Loads : Prop :=
  ∀ (o : Source) (s : State), s.canRead o →
    CompletesAfterRead (.lda o) o s (fun v u t => t.a = v ∧ FlagsNZ v t ∧ RegisterEffect [.a] [.z, .n] s u t) ∧
    CompletesAfterRead (.ldx o) o s (fun v u t => t.x = v ∧ FlagsNZ v t ∧ RegisterEffect [.x] [.z, .n] s u t) ∧
    CompletesAfterRead (.ldy o) o s (fun v u t => t.y = v ∧ FlagsNZ v t ∧ RegisterEffect [.y] [.z, .n] s u t)

/-- STA, STX, STY, STZ complete at every mapped address, computed by `effectiveAddress`: the byte is written there, no register,
no flag and no other byte changes (R143 to R146). -/
def Obligations.Stores : Prop :=
  ∀ (m : MemMode) (s : State) (ea : Addr), s.mem.wf → effectiveAddress m s = .ok (ea, s) → mapped s.config ea = true →
    Completes (.sta m) s (WriteEffect ea s.a [] s s) ∧ Completes (.stx m) s (WriteEffect ea s.x [] s s) ∧
    Completes (.sty m) s (WriteEffect ea s.y [] s s) ∧ Completes (.stz m) s (WriteEffect ea 0x00 [] s s)

/-- TAX, TAY, TXA, TYA, TSX copy and set Z and N from the byte; TXS copies and sets no flag (R150 to R155). -/
def Obligations.Transfers : Prop :=
  ∀ s : State,
    Completes .tax s (fun t => t.x = s.a ∧ FlagsNZ s.a t ∧ RegisterEffect [.x] [.z, .n] s s t) ∧
    Completes .tay s (fun t => t.y = s.a ∧ FlagsNZ s.a t ∧ RegisterEffect [.y] [.z, .n] s s t) ∧
    Completes .txa s (fun t => t.a = s.x ∧ FlagsNZ s.x t ∧ RegisterEffect [.a] [.z, .n] s s t) ∧
    Completes .tya s (fun t => t.a = s.y ∧ FlagsNZ s.y t ∧ RegisterEffect [.a] [.z, .n] s s t) ∧
    Completes .tsx s (fun t => t.x = s.sp ∧ FlagsNZ s.sp t ∧ RegisterEffect [.x] [.z, .n] s s t) ∧
    Completes .txs s (fun t => t.sp = s.x ∧ RegisterEffect [.sp] [] s s t)

/-- PHA, PHP, PHX, PHY push one byte and change nothing but SP and that byte; PHP pushes P with B and U set
(R159, R160, R163, R164). -/
def Obligations.PushInstructions : Prop :=
  ∀ s : State, s.mem.wf →
    Completes .pha s (fun t => Pushed [s.a] s t ∧ CpuFrame [.sp] [] s t ∧ t.pc = s.pc) ∧
    Completes .php s (fun t => Pushed [s.p ||| 0x30] s t ∧ CpuFrame [.sp] [] s t ∧ t.pc = s.pc) ∧
    Completes .phx s (fun t => Pushed [s.x] s t ∧ CpuFrame [.sp] [] s t ∧ t.pc = s.pc) ∧
    Completes .phy s (fun t => Pushed [s.y] s t ∧ CpuFrame [.sp] [] s t ∧ t.pc = s.pc)

/-- PLA, PLX, PLY pull a byte into a register and set Z and N from it (PLA's flags: general knowledge G6); PLP loads every flag
from the pulled byte but B, cleared, and U, set. SP goes up by 1 (R161, R162, R165, R166). -/
def Obligations.PullInstructions : Prop :=
  ∀ s : State,
    Completes .pla s (fun t => t.a = s.stacked 1 ∧ FlagsNZ (s.stacked 1) t ∧ t.sp = s.sp + 1 ∧
      RegisterEffect [.a, .sp] [.z, .n] s s t) ∧
    Completes .plx s (fun t => t.x = s.stacked 1 ∧ FlagsNZ (s.stacked 1) t ∧ t.sp = s.sp + 1 ∧
      RegisterEffect [.x, .sp] [.z, .n] s s t) ∧
    Completes .ply s (fun t => t.y = s.stacked 1 ∧ FlagsNZ (s.stacked 1) t ∧ t.sp = s.sp + 1 ∧
      RegisterEffect [.y, .sp] [.z, .n] s s t) ∧
    Completes .plp s (fun t =>
      (∀ f, f ≠ .b → f ≠ .u → t.flag f = (s.stacked 1).getLsbD f.pos) ∧ t.flag .b = false ∧ t.flag .u = true ∧
      t.sp = s.sp + 1 ∧ RegisterEffect [.sp] [.c, .z, .i, .d, .b, .u, .v, .n] s s t)

/-! ## Instructions: arithmetic and compare -/

/-- ADC completes on every readable operand, D set or not: V, N, Z are those of the exact sum r = A + M + C, and where D does
not select decimal arithmetic A is r mod 256 and C its carry (R170 to R172; N, Z, C: general knowledge G6). Under bcd with D
set, V, N, Z are still the binary sum's: R177's text, where U2 says any value; the model's choice, DESIGN CHOICE of log 11. -/
def Obligations.AdcResult : Prop :=
  ∀ (o : Source) (s : State), s.canRead o →
    CompletesAfterRead (.adc o) o s (fun v u t =>
      let r := s.a.toNat + v.toNat + s.carryIn
      t.flag .v = decide ((s.a.toNat ^^^ r) &&& (v.toNat ^^^ r) &&& 0x80 ≠ 0) ∧ FlagsNZ (BitVec.ofNat 8 r) t ∧
      (s.config.decimalMode = .binary ∨ s.flag .d = false → t.a.toNat = r % 256 ∧ t.flag .c = decide (255 < r)) ∧
      RegisterEffect [.a] [.n, .z, .c, .v] s u t)

/-- SBC completes on every readable operand, D set or not: C is "no borrow" of the exact difference r = A - M - (1 - C), V, N, Z
are those of r mod 256, and where D does not select decimal arithmetic A is r mod 256 (R170, R171, R173; N, Z: general knowledge
G6; C as "no borrow": an inference R173 marks as the spec's own). Under bcd with D set, V, N, Z and C are still the binary
difference's: R177's text, where U2 leaves N, Z, V open; the model's choice, DESIGN CHOICE of log 11. -/
def Obligations.SbcResult : Prop :=
  ∀ (o : Source) (s : State), s.canRead o →
    CompletesAfterRead (.sbc o) o s (fun v u t =>
      let r : Int := (s.a.toNat : Int) - v.toNat - (1 - s.carryIn)
      let r8 := (r % 256).toNat
      t.flag .v = decide ((s.a.toNat ^^^ v.toNat) &&& (s.a.toNat ^^^ r8) &&& 0x80 ≠ 0) ∧
      FlagsNZ (BitVec.ofNat 8 r8) t ∧ t.flag .c = decide (0 ≤ r) ∧
      (s.config.decimalMode = .binary ∨ s.flag .d = false → t.a.toNat = r8) ∧
      RegisterEffect [.a] [.n, .z, .c, .v] s u t)

/-- V is signed overflow, in the immediate forms of ADC and SBC: set exactly when the sum or difference of the operands read as
two's complement leaves -128..127 (R170, R178); the other forms' V is that of `AdcResult` and `SbcResult`. Under bcd with D set
this is R177's text, where U2 leaves V open: the model's choice, DESIGN CHOICE of log 11. And where D does not select decimal
arithmetic SBC is ADC of the complement, in A and every flag (R173, the spec's inference). -/
def Obligations.SignedOverflowAndComplement : Prop :=
  ∀ (v : Byte) (s : State),
    Completes (.adc (.imm v)) s (fun t =>
      let r := s.a.toInt + v.toInt + s.carryIn
      t.flag .v = decide (r < -128 ∨ 127 < r)) ∧
    Completes (.sbc (.imm v)) s (fun t =>
      let r := s.a.toInt - v.toInt - (1 - s.carryIn)
      t.flag .v = decide (r < -128 ∨ 127 < r)) ∧
    (s.config.decimalMode = .binary ∨ s.flag .d = false →
      ∃ t, exec (.sbc (.imm v)) s = .next t ∧ exec (.adc (.imm (v ^^^ 0xFF))) s = .next t)

/-- Under `DECIMAL_MODE = bcd` with D = 1, on valid BCD operands, ADC and SBC add and subtract two-digit decimal numbers modulo
100, with C as decimal carry and no-borrow (R177; the algorithm is general knowledge G7, the mode a parameter, log 1). -/
def Obligations.DecimalArithmetic : Prop :=
  ∀ (o : Source) (s : State), s.canRead o → s.config.decimalMode = .bcd → s.flag .d = true → validBcd s.a = true →
    CompletesAfterRead (.adc o) o s (fun v _ t => validBcd v = true →
      validBcd t.a = true ∧ bcdValue t.a = (bcdValue s.a + bcdValue v + s.carryIn) % 100 ∧
      t.flag .c = decide (100 ≤ bcdValue s.a + bcdValue v + s.carryIn)) ∧
    CompletesAfterRead (.sbc o) o s (fun v _ t => validBcd v = true →
      validBcd t.a = true ∧ bcdValue t.a = (bcdValue s.a + 100 - bcdValue v - (1 - s.carryIn)) % 100 ∧
      t.flag .c = decide (bcdValue v + (1 - s.carryIn) ≤ bcdValue s.a))

/-- CMP, CPX, CPY: C says register ≥ operand, Z register = operand, N is bit 7 of the difference; no register and no other flag
changes, and C is not an input (R174 to R176). -/
def Obligations.Compares : Prop :=
  ∀ (o : Source) (s : State), s.canRead o →
    (let effect := fun (r v : Byte) (u t : State) =>
      t.flag .c = decide (v.toNat ≤ r.toNat) ∧ t.flag .z = decide (r = v) ∧
      t.flag .n = decide (128 ≤ (r.toNat + 256 - v.toNat) % 256) ∧ RegisterEffect [] [.c, .z, .n] s u t
     CompletesAfterRead (.cmp o) o s (effect s.a) ∧ CompletesAfterRead (.cpx o) o s (effect s.x) ∧
     CompletesAfterRead (.cpy o) o s (effect s.y))

/-! ## Instructions: logic, shifts, bits, increments, flags -/

/-- AND, ORA, EOR combine A bit by bit and set Z and N; BIT changes no register, sets Z from A AND M, and N and V from the
operand's bits 7 and 6, in the immediate form only under `BIT_IMM_FLAGS = nvz` (R180 to R183; decision D6). -/
def Obligations.LogicAndBit : Prop :=
  ∀ (o : Source) (s : State), s.canRead o →
    CompletesAfterRead (.and o) o s (fun v u t =>
      (∀ k, t.a.getLsbD k = (s.a.getLsbD k && v.getLsbD k)) ∧ FlagsNZ t.a t ∧ RegisterEffect [.a] [.z, .n] s u t) ∧
    CompletesAfterRead (.ora o) o s (fun v u t =>
      (∀ k, t.a.getLsbD k = (s.a.getLsbD k || v.getLsbD k)) ∧ FlagsNZ t.a t ∧ RegisterEffect [.a] [.z, .n] s u t) ∧
    CompletesAfterRead (.eor o) o s (fun v u t =>
      (∀ k, t.a.getLsbD k = (s.a.getLsbD k ^^ v.getLsbD k)) ∧ FlagsNZ t.a t ∧ RegisterEffect [.a] [.z, .n] s u t) ∧
    CompletesAfterRead (.bit o) o s (fun v u t =>
      t.flag .z = (s.a &&& v == 0) ∧
      (if o = .imm v ∧ s.config.bitImmFlags = .zOnly then RegisterEffect [] [.z] s u t
       else t.flag .n = v.getLsbD 7 ∧ t.flag .v = v.getLsbD 6 ∧ RegisterEffect [] [.z, .n, .v] s u t))

/-- ASL, LSR, ROL, ROR of the accumulator: the result as a number, C the bit shifted out, Z and N of the result
(R184 to R187). -/
def Obligations.ShiftAccumulator : Prop :=
  ∀ s : State,
    (let effect := fun (r : Nat) (c : Bool) (t : State) =>
      t.a.toNat = r ∧ t.flag .c = c ∧ FlagsNZ t.a t ∧ RegisterEffect [.a] [.c, .z, .n] s s t
     Completes (.asl .acc) s (effect (2 * s.a.toNat % 256) (decide (128 ≤ s.a.toNat))) ∧
     Completes (.lsr .acc) s (effect (s.a.toNat / 2) (decide (s.a.toNat % 2 = 1))) ∧
     Completes (.rol .acc) s (effect ((2 * s.a.toNat + s.carryIn) % 256) (decide (128 ≤ s.a.toNat))) ∧
     Completes (.ror .acc) s (effect (s.a.toNat / 2 + 128 * s.carryIn) (decide (s.a.toNat % 2 = 1))))

/-- ASL, LSR, ROL, ROR of memory: the byte read is written back shifted, once, at the address `effectiveAddress` gives; C, Z, N
as for the accumulator; no register changes (R184 to R187). -/
def Obligations.ShiftMemory : Prop :=
  ∀ (m : MemMode) (s : State) (ea : Addr), s.mem.wf → effectiveAddress m s = .ok (ea, s) → mapped s.config ea = true →
    (let effect := fun (r : Nat) (c : Bool) (u t : State) =>
      t.flag .c = c ∧ FlagsNZ (BitVec.ofNat 8 r) t ∧ WriteEffect ea (BitVec.ofNat 8 r) [.c, .z, .n] s u t
     CompletesModify (.asl (.mem m)) ea s (fun v => effect (2 * v.toNat % 256) (decide (128 ≤ v.toNat))) ∧
     CompletesModify (.lsr (.mem m)) ea s (fun v => effect (v.toNat / 2) (decide (v.toNat % 2 = 1))) ∧
     CompletesModify (.rol (.mem m)) ea s
       (fun v => effect ((2 * v.toNat + s.carryIn) % 256) (decide (128 ≤ v.toNat))) ∧
     CompletesModify (.ror (.mem m)) ea s (fun v => effect (v.toNat / 2 + 128 * s.carryIn) (decide (v.toNat % 2 = 1))))

/-- TRB and TSB clear and set in memory the bits that A has, with Z from A AND M before (R188, R189); RMB0..RMB7 and SMB0..SMB7
clear and set bit n of a zero-page byte and no flag (R190, R191). The byte is read once and written once, no register and
no other byte changes. -/
def Obligations.BitModification : Prop :=
  (∀ (m : MemMode) (s : State) (ea : Addr), s.mem.wf → effectiveAddress m s = .ok (ea, s) → mapped s.config ea = true →
    CompletesModify (.trb m) ea s (fun v u t =>
      t.flag .z = decide (s.a &&& v = 0) ∧ WriteEffect ea (v &&& ~~~s.a) [.z] s u t) ∧
    CompletesModify (.tsb m) ea s (fun v u t =>
      t.flag .z = decide (s.a &&& v = 0) ∧ WriteEffect ea (v ||| s.a) [.z] s u t)) ∧
  (∀ (z : Byte) (s : State), s.mem.wf →
    (∀ p ∈ [(0, Instr.rmb0), (1, Instr.rmb1), (2, Instr.rmb2), (3, Instr.rmb3), (4, Instr.rmb4), (5, Instr.rmb5),
        (6, Instr.rmb6), (7, Instr.rmb7)],
      CompletesModify (p.2 z) (zext16 z) s (fun v u t =>
        ∃ w : Byte, (∀ k, w.getLsbD k = (v.getLsbD k && k != p.1)) ∧ WriteEffect (zext16 z) w [] s u t)) ∧
    (∀ p ∈ [(0, Instr.smb0), (1, Instr.smb1), (2, Instr.smb2), (3, Instr.smb3), (4, Instr.smb4), (5, Instr.smb5),
        (6, Instr.smb6), (7, Instr.smb7)],
      CompletesModify (p.2 z) (zext16 z) s (fun v u t =>
        ∃ w : Byte, (∀ k, w.getLsbD k = (v.getLsbD k || k == p.1)) ∧ WriteEffect (zext16 z) w [] s u t)))

/-- INC and DEC of memory and of A, INX, DEX, INY, DEY: plus or minus 1 modulo 256, Z and N of the result, C and V unchanged
(R200 to R205; C and V: general knowledge G6). -/
def Obligations.IncrementsAndDecrements : Prop :=
  (∀ (m : MemMode) (s : State) (ea : Addr), s.mem.wf → effectiveAddress m s = .ok (ea, s) → mapped s.config ea = true →
    (let effect := fun (r : Byte) (u t : State) => FlagsNZ r t ∧ WriteEffect ea r [.z, .n] s u t
     CompletesModify (.inc (.mem m)) ea s (fun v => effect (BitVec.ofNat 8 ((v.toNat + 1) % 256))) ∧
     CompletesModify (.dec (.mem m)) ea s (fun v => effect (BitVec.ofNat 8 ((v.toNat + 255) % 256))))) ∧
  (∀ s : State,
    (let effect := fun (r : Reg) (n : Nat) (t : State) =>
      (t.reg r).toNat = ((s.reg r).toNat + n) % 256 ∧ FlagsNZ (t.reg r) t ∧ RegisterEffect [r] [.z, .n] s s t
     Completes (.inc .acc) s (effect .a 1) ∧ Completes (.dec .acc) s (effect .a 255) ∧
     Completes .inx s (effect .x 1) ∧ Completes .dex s (effect .x 255) ∧
     Completes .iny s (effect .y 1) ∧ Completes .dey s (effect .y 255)))

/-- CLC, SEC, CLI, SEI, CLD, SED, CLV change exactly their one bit of P and nothing else (R206 to R212). -/
def Obligations.FlagInstructions : Prop :=
  ∀ s : State, ∀ p ∈ [(Instr.clc, Flag.c, false), (.sec, .c, true), (.cli, .i, false), (.sei, .i, true), (.cld, .d, false),
      (.sed, .d, true), (.clv, .v, false)],
    Completes p.1 s (fun t => t.flag p.2.1 = p.2.2 ∧ RegisterEffect [] [p.2.1] s s t)

/-! ## Instructions: control flow, system -/

/-- JMP: absolute, through the word at the operand, through the word at operand + X; the pointer's sum and its second byte wrap
modulo 65536, and only PC changes (R116, R117, R220). -/
def Obligations.Jumps : Prop :=
  ∀ (w : Addr) (s : State),
    Completes (.jmp (.abs w)) s (JumpEffect w [] [] s s) ∧
    (mapped s.config w = true → mapped s.config (w + 1) = true →
      ∃ target u, readWord w s = .ok (target, u) ∧ Completes (.jmp (.ind w)) s (JumpEffect target [] [] s u)) ∧
    (∀ p : Addr, p.toNat = (w.toNat + s.x.toNat) % 65536 → mapped s.config p = true → mapped s.config (p + 1) = true →
      ∃ target u, readWord p s = .ok (target, u) ∧ Completes (.jmp (.iax w)) s (JumpEffect target [] [] s u))

/-- JSR pushes the address of its own last byte (PC, already past the instruction, minus 1), high byte first, and jumps; RTS
pulls a word and goes to it plus 1; RTS after JSR comes back to the instruction after it with SP as it was (R221, R222). -/
def Obligations.Subroutines : Prop :=
  ∀ (w : Addr) (s : State), s.mem.wf →
    (∃ t, exec (.jsr w) s = .next t ∧ Pushed [hiByte (s.pc - 1), loByte (s.pc - 1)] s t ∧ t.pc = w ∧
      CpuFrame [.sp] [] s t ∧ ∃ r, exec .rts t = .next r ∧ r.pc = s.pc ∧ r.sp = s.sp) ∧
    Completes .rts s (fun t => t.sp = s.sp + 2 ∧ JumpEffect (wordOf (s.stacked 2) (s.stacked 1) + 1) [.sp] [] s s t)

/-- The eight conditional branches and BRA: taken exactly when the flag has the value the mnemonic names, to PC plus the signed
offset modulo 65536 from the next instruction's address; else PC stays; nothing else changes (R118, R223 to R232). -/
def Obligations.Branches : Prop :=
  ∀ (off : Byte) (s : State),
    ∀ p ∈ [(Instr.bpl, s.flag .n == false), (.bmi, s.flag .n == true), (.bvc, s.flag .v == false), (.bvs, s.flag .v == true),
        (.bcc, s.flag .c == false), (.bcs, s.flag .c == true), (.bne, s.flag .z == false), (.beq, s.flag .z == true),
        (.bra, true)],
      Completes (p.1 off) s (fun t => ∃ target, JumpEffect target [] [] s s t ∧
        (target.toNat : Int) = if p.2 = true then ((s.pc.toNat : Int) + off.toInt) % 65536 else s.pc.toNat)

/-- BBR0..BBR7 and BBS0..BBS7: taken exactly when bit n of the zero-page byte is 0 (BBR) or 1 (BBS); nothing but PC changes
(R233, R234). -/
def Obligations.BranchesOnBit : Prop :=
  ∀ (z off : Byte) (s : State),
    (let effect := fun (taken : Bool) (t : State) => ∃ target, JumpEffect target [] [] s s t ∧
      (target.toNat : Int) = if taken = true then ((s.pc.toNat : Int) + off.toInt) % 65536 else s.pc.toNat
     (∀ p ∈ [(0, Instr.bbr0), (1, Instr.bbr1), (2, Instr.bbr2), (3, Instr.bbr3), (4, Instr.bbr4), (5, Instr.bbr5),
        (6, Instr.bbr6), (7, Instr.bbr7)],
      Completes (p.2 z off) s (effect ((s.byteAt (zext16 z)).getLsbD p.1 == false))) ∧
     (∀ p ∈ [(0, Instr.bbs0), (1, Instr.bbs1), (2, Instr.bbs2), (3, Instr.bbs3), (4, Instr.bbs4), (5, Instr.bbs5),
        (6, Instr.bbs6), (7, Instr.bbs7)],
      Completes (p.2 z off) s (effect ((s.byteAt (zext16 z)).getLsbD p.1 == true))))

/-- NOP and the reserved opcodes do nothing beyond the fetch (R235, R236; decision D9); WAI and STP set their latch and nothing
else (R252, R253). -/
def Obligations.NopWaiStp : Prop :=
  ∀ s : State,
    exec .nop s = .next s ∧ (∀ r : Reserved, exec (.nopReserved r) s = .next s) ∧
    exec .wai s = .next { s with waiting := true } ∧ exec .stp s = .next { s with halted := true }

/-- BRK, with PC past its opcode byte: pushes PC + 1 high and low, then P with B and U set; sets I and no other flag (D stays,
decision D24); PC from 0xFFFE; no latch is touched (R250). -/
def Obligations.BrkEntry : Prop :=
  ∀ s : State, s.mem.wf →
    Completes .brk s (fun t =>
      Pushed [hiByte (s.pc + 1), loByte (s.pc + 1), s.p ||| 0x30] s t ∧ t.flag .i = true ∧ t.pc = s.wordAt 0xFFFE ∧
      CpuFrame [.sp] [.i] s t)

/-- RTI pulls P (B cleared, U set), then PC low and high, with no increment (R251). Straight after BRK, or after an NMI or IRQ
sequence, it comes back to the interrupted PC (for BRK the opcode's address + 2) with SP, A, X, Y and every flag but B and
U as before (R269). -/
def Obligations.ReturnFromException : Prop :=
  ∀ s : State,
    Completes .rti s (fun t =>
      (∀ f, f ≠ .b → f ≠ .u → t.flag f = (s.stacked 1).getLsbD f.pos) ∧ t.flag .b = false ∧ t.flag .u = true ∧
      t.sp = s.sp + 3 ∧
      JumpEffect (wordOf (s.stacked 3) (s.stacked 2)) [.sp] [.c, .z, .i, .d, .b, .u, .v, .n] s s t) ∧
    (let back := fun (pc : Addr) (t : State) => Completes .rti t (fun r =>
      r.pc = pc ∧ (∀ q, r.reg q = s.reg q) ∧ (∀ f, f ≠ .b → f ≠ .u → r.flag f = s.flag f))
     s.mem.wf → Completes .brk s (back (s.pc + 1)) ∧
       ∀ vec, vec = 0xFFFA ∨ vec = 0xFFFE → ∃ t, interruptSequence vec s = .ok t ∧ back s.pc t)

/-- R26, R24, R21: only the listed instructions write a given flag, SP, or (beyond the fetch) PC; and no instruction but WAI and
STP touches a latch. -/
def Obligations.Writers : Prop :=
  ∀ (i : Instr) (s t : State), exec i s = .next t →
    (∀ f, writesFlag s.config f i = false → t.flag f = s.flag f) ∧
    (writesSp i = false → t.sp = s.sp) ∧ (writesPc i = false → t.pc = s.pc) ∧
    (i ≠ .wai → i ≠ .stp → SameControl s t)

/-! ## The step -/

/-- At a boundary with nothing to service, when the bytes at PC decode to an instruction, a step executes it with PC past it,
charges the cycles that the parameters give its opcode less this one, ticks the bus once and counts one cycle (R5, R102, R262;
conflict C1). The bytes lie in RAM or ROM; or they are what the bus reads one after the other, from wherever it is, device
registers included, whose read side effects then stand before the instruction runs (R77), and the skipped byte of a reserved
immediate slot is not read (R127). An opcode or operand byte at an unmapped address is the fault that names it (R77, R280). -/
def Obligations.StepRunsDecodedInstruction : Prop :=
  ∀ s : State, s.quiet → s.ready →
    (let before := s.setHostInput s.hostInput.tail
     let finish := fun (op : Byte) => mapNext
      (fun t => (busTick (t.setPendingCycles (cyclesOf s.config op - 1))).setCycleCount (t.cycleCount + 1))
     (∀ (i : Instr) (rest : List Byte), decode (s.bytesAt s.pc) = .ok (i, rest) →
      (∀ k < i.length, isPlain (s.pc + BitVec.ofNat 16 k) = true) →
      step s = finish (s.byteAt s.pc) (exec i (before.setPc (s.pc + BitVec.ofNat 16 i.length)))) ∧
     (∀ (op : Byte) (operands skipped : List Byte) (i : Instr) (u : State),
      readBytes (1 + operandsRead op) s.pc before = .ok (op :: operands, u) →
      decode (op :: operands ++ skipped) = .ok (i, []) →
      step s = finish op (exec i (u.setPc (s.pc + BitVec.ofNat 16 i.length)))) ∧
     (mapped s.config s.pc = false → step s = .fault (.outOfRange s.pc)) ∧
     (∀ (op : Byte) (u : State) (k : Nat), busRead s.pc before = .ok (op, u) → k < operandsRead op →
      (∀ j < k, mapped s.config (s.pc + BitVec.ofNat 16 (1 + j)) = true) →
      mapped s.config (s.pc + BitVec.ofNat 16 (1 + k)) = false →
      step s = .fault (.outOfRange (s.pc + BitVec.ofNat 16 (1 + k)))))

/-- Residual cycles: while k or more of them remain, k steps of a running CPU change its registers and memory in nothing, count
k cycles and leave k fewer, whatever the devices do and whatever the host does short of a reset (R6, R262, R268). -/
def Obligations.ResidualCycles : Prop :=
  ∀ (k : Nat) (s : State), s.halted = false → s.waiting = false → k ≤ s.pendingCycles → s.hostLeavesCpu →
    ∃ t, core.run k s = .next t ∧ SameCpuAndMemory s t ∧ t.pendingCycles = s.pendingCycles - k ∧
      t.cycleCount = s.cycleCount + k ∧ t.halted = false ∧ t.waiting = false

/-- R262 to R265, what one CPU step does. Halted with no reset pending: only a residual cycle is spent. Waiting with no latch set:
nothing, whatever I is (decision D12). Otherwise `waiting` is cleared and a residual cycle is spent if there is one; and at
a boundary exactly one thing happens, "RESET > NMI > IRQ, with IRQ masked by I", else an instruction, this cycle counted as
its first (conflict C1). And every step of the machine, also of a halted or waiting CPU or in a residual cycle, is the host's
due actions, one such CPU step, then one bus tick and one cycle counted (R4, R5); a CPU step that faults ends it. -/
def Obligations.CpuStepOrder : Prop :=
  ∀ s : State,
    (s.halted = true → s.resetPending = false → cpuStep s = .next { s with pendingCycles := s.pendingCycles - 1 }) ∧
    (s.halted = false → s.waiting = true → s.anyPending = false → cpuStep s = .next s) ∧
    ((s.halted = true → s.resetPending = true) → (s.waiting = true → s.anyPending = true) →
      (0 < s.pendingCycles →
        cpuStep s = .next { s with waiting := false, pendingCycles := s.pendingCycles - 1 }) ∧
      (s.pendingCycles = 0 →
        cpuStep s = mapNext spendCycle
          (if s.resetPending = true then toOutcome (resetSequence 7 (s.setWaiting false))
           else if s.nmiPending = true then
            toOutcome (interruptSequence 0xFFFA ((s.setWaiting false).setNmiPending false))
           else if s.irqPending = true ∧ s.flag .i = false then
            toOutcome (interruptSequence 0xFFFE ((s.setWaiting false).setIrqPending false))
           else executeInstruction (s.setWaiting false)))) ∧
    (∀ u : State, performDue s = .ok u →
      step s = mapNext (fun t => (busTick t).setCycleCount (t.cycleCount + 1)) (cpuStep u))

/-- R266: the NMI and IRQ sequences push PC high, PC low and P with U = 1, B = 0, set I (D stays, decision D24), clear `waiting`,
load PC from the vector, charge 7 cycles; nothing else changes. -/
def Obligations.InterruptEntry : Prop :=
  ∀ (s : State) (vec : Addr), s.mem.wf → vec = 0xFFFA ∨ vec = 0xFFFE →
    ∃ t, interruptSequence vec s = .ok t ∧
      Pushed [hiByte s.pc, loByte s.pc, (s.p ||| 0x20) &&& 0xEF] s t ∧ t.flag .i = true ∧
      (∀ f, f ≠ .i → t.flag f = s.flag f) ∧ t.a = s.a ∧ t.x = s.x ∧ t.y = s.y ∧ t.pc = s.wordAt vec ∧
      SameControl { s with waiting := false, pendingCycles := 7 } t

/-- R342, R343: a RESET sequence writes nothing to memory and no device, sets SP - 3, PC from 0xFFFC, A = X = Y = 0, P = 0x34,
clears the latches (`waiting` by decision D11) and keeps `nmi_last_high` and `last_irq[]` (decision D14). -/
def Obligations.ResetSequenceEffect : Prop :=
  ∀ (n : Nat) (s : State),
    ∃ t, resetSequence n s = .ok t ∧ t.a = 0 ∧ t.x = 0 ∧ t.y = 0 ∧ t.sp.toNat = (s.sp.toNat + 253) % 256 ∧ t.p = 0x34 ∧
      t.pc = s.wordAt 0xFFFC ∧ SameMemory s t ∧ SameDevices s t ∧
      SameControl { s with halted := false, nmiPending := false, irqPending := false, waiting := false, resetPending := false, pendingCycles := n } t

/-- A halted CPU stays as it is for any number of steps, whatever NMI or IRQ arrives and whatever the host does short of a reset;
only its residual cycles run out and the cycle counter advances (R253, R263). -/
def Obligations.HaltedCpuIsFrozen : Prop :=
  ∀ (k : Nat) (s : State), s.halted = true → s.resetPending = false → s.hostLeavesCpu →
    ∃ t, core.run k s = .next t ∧ SameCpuAndMemory s t ∧ t.halted = true ∧ t.resetPending = false ∧
      t.pendingCycles = s.pendingCycles - k ∧ t.cycleCount = s.cycleCount + k ∧
      (s.pendingCycles ≤ k → t.isFinal = true)

/-- R270: one bus tick ticks each device on the bus once, requests an IRQ exactly on a rising edge of a sampled line, remembers
the samples, and changes nothing else. -/
def Obligations.IrqEdge : Prop :=
  ∀ s : State,
    (let v := s.via.tick
     let c := s.acia.tick s.config.aciaRxCapacity
     let t := busTick s
     t.via = v ∧ t.lastIrqVia = v.hasIrq ∧
     t.acia = (if s.config.aciaPresent = true then c else s.acia) ∧
     t.lastIrqAcia = (if s.config.aciaPresent = true then c.hasIrq else s.lastIrqAcia) ∧
     (t.irqPending = true ↔ s.irqPending = true ∨ (s.lastIrqVia = false ∧ v.hasIrq = true) ∨
       (s.config.aciaPresent = true ∧ s.lastIrqAcia = false ∧ c.hasIrq = true)) ∧
     SameCpuAndMemory s t ∧
     SameControl { s with irqPending := t.irqPending, lastIrqVia := t.lastIrqVia, lastIrqAcia := t.lastIrqAcia } t)

/-- R272: a latched IRQ stays latched over a step that does not service it, even if its device has withdrawn the line. -/
def Obligations.LatchedIrqStays : Prop :=
  ∀ s t : State, s.quiet → s.resetPending = false → s.irqPending = true →
    (s.flag .i = true ∨ 0 < s.pendingCycles ∨ s.nmiPending = true ∨ s.halted = true) →
    step s = .next t → t.irqPending = true

/-! ## Devices -/

/-- R300, R301, R302, R314: the port and direction registers over the bus. A read masks with the direction; a write changes
exactly the output bits, and clears CB1 and CB2 (port B) or CA1 and CA2 (port A, but not through 0x600F). What the host sees on
either port is the same mask (R37). -/
def Obligations.ViaPorts : Prop :=
  ∀ (v : Byte) (s : State),
    busRead 0x6000 s = .ok (s.via.orb &&& s.via.ddrb, s) ∧
    busRead 0x6001 s = .ok (s.via.ora &&& s.via.ddra, { s with via := { s.via with ifr := s.via.ifr &&& 0xFC } }) ∧
    busRead 0x6002 s = .ok (s.via.ddrb, s) ∧ busRead 0x6003 s = .ok (s.via.ddra, s) ∧
    busRead 0x600F s = .ok (s.via.ora &&& s.via.ddra, s) ∧
    s.via.portAOut = s.via.ora &&& s.via.ddra ∧ s.via.portBOut = s.via.orb &&& s.via.ddrb ∧
    (∃ r : Byte, (∀ k, r.getLsbD k = if s.via.ddrb.getLsbD k then v.getLsbD k else s.via.orb.getLsbD k) ∧
      busWrite 0x6000 v s = .ok { s with via := { s.via with orb := r, ifr := s.via.ifr &&& 0xE7 } }) ∧
    (∃ r : Byte, (∀ k, r.getLsbD k = if s.via.ddra.getLsbD k then v.getLsbD k else s.via.ora.getLsbD k) ∧
      busWrite 0x6001 v s = .ok { s with via := { s.via with ora := r, ifr := s.via.ifr &&& 0xFC } } ∧
      busWrite 0x600F v s = .ok { s with via := { s.via with ora := r } }) ∧
    busWrite 0x6002 v s = .ok { s with via := { s.via with ddrb := v } } ∧
    busWrite 0x6003 v s = .ok { s with via := { s.via with ddra := v } }

/-- R303 to R308, R309, R311: the timer registers and the storage registers SR and PCR over the bus; the timer 2 latches cannot
be read back. And ACR's read and write, stored and read back whole (of R310; what its bits 6 and 5 do is in `ViaTick`). -/
def Obligations.ViaTimerAndStorageRegisters : Prop :=
  ∀ (v : Byte) (s : State),
    busRead 0x6004 s = .ok (loByte s.via.t1c, { s with via := { s.via with ifr := s.via.ifr &&& 0xBF } }) ∧
    busRead 0x6005 s = .ok (hiByte s.via.t1c, s) ∧
    busRead 0x6006 s = .ok (s.via.t1lL, s) ∧ busRead 0x6007 s = .ok (s.via.t1lH, s) ∧
    busRead 0x6008 s = .ok (loByte s.via.t2c, { s with via := { s.via with ifr := s.via.ifr &&& 0xDF } }) ∧
    busRead 0x6009 s = .ok (hiByte s.via.t2c, s) ∧
    busRead 0x600A s = .ok (s.via.sr, s) ∧ busRead 0x600B s = .ok (s.via.acr, s) ∧ busRead 0x600C s = .ok (s.via.pcr, s) ∧
    busWrite 0x6004 v s = .ok { s with via := { s.via with t1lL := v } } ∧
    busWrite 0x6005 v s = .ok { s with via := { s.via with
      t1lH := v, t1c := BitVec.ofNat 16 (v.toNat * 256 + s.via.t1lL.toNat), ifr := s.via.ifr &&& 0xBF } } ∧
    busWrite 0x6006 v s = .ok { s with via := { s.via with t1lL := v } } ∧
    busWrite 0x6007 v s = .ok { s with via := { s.via with t1lH := v, ifr := s.via.ifr &&& 0xBF } } ∧
    busWrite 0x6008 v s = .ok { s with via := { s.via with t2lL := v } } ∧
    busWrite 0x6009 v s = .ok { s with via := { s.via with
      t2lH := v, t2c := BitVec.ofNat 16 (v.toNat * 256 + s.via.t2lL.toNat), ifr := s.via.ifr &&& 0xDF } } ∧
    busWrite 0x600A v s = .ok { s with via := { s.via with sr := v } } ∧
    busWrite 0x600B v s = .ok { s with via := { s.via with acr := v } } ∧
    busWrite 0x600C v s = .ok { s with via := { s.via with pcr := v } } ∧
    (∀ (r : ViaReg) (l h : Byte), (Via.read r { s.via with t2lL := l, t2lH := h }).1 = (s.via.read r).1)

/-- R312, R313: IFR reads as stored and a write clears the flags written as 1; IER reads with bit 7 set and a write sets or clears
the enables by its bit 7; both writes re-derive the summary, bit 7 of IFR. -/
def Obligations.ViaInterruptRegisters : Prop :=
  ∀ (v : Byte) (s : State),
    busRead 0x600D s = .ok (s.via.ifr, s) ∧
    (∃ r : Byte, busRead 0x600E s = .ok (r, s) ∧ r.getLsbD 7 = true ∧ ∀ k < 7, r.getLsbD k = s.via.ier.getLsbD k) ∧
    (∃ r : Byte, busWrite 0x600D v s = .ok { s with via := { s.via with ifr := r } } ∧
      (∀ k < 7, r.getLsbD k = (s.via.ifr.getLsbD k && !v.getLsbD k)) ∧
      (r.getLsbD 7 = true ↔ ∃ k < 7, r.getLsbD k = true ∧ s.via.ier.getLsbD k = true)) ∧
    (∃ (r : Byte) (e : BitVec 7), busWrite 0x600E v s = .ok { s with via := { s.via with ifr := r, ier := e } } ∧
      (∀ k < 7, e.getLsbD k = if v.getLsbD k then v.getLsbD 7 else s.via.ier.getLsbD k) ∧
      (∀ k < 7, r.getLsbD k = s.via.ifr.getLsbD k) ∧
      (r.getLsbD 7 = true ↔ ∃ k < 7, r.getLsbD k = true ∧ e.getLsbD k = true))

/-- R318: one VIA tick. A counter at 0 does not move and sets no flag; a counter at 1 reaches 0 and sets its flag, timer 1 then
reloading from its latch if ACR bit 6 is 1; timer 2 counts only while ACR bit 5 is 0; the summary is derived last; nothing else
changes. -/
def Obligations.ViaTick : Prop :=
  ∀ d : Via,
    (let t := d.tick
     t.t1c.toNat = (if d.t1c.toNat = 1 then (if d.acr.getLsbD 6 then d.t1lH.toNat * 256 + d.t1lL.toNat else 0)
       else d.t1c.toNat - 1) ∧
     t.t2c.toNat = (if d.acr.getLsbD 5 then d.t2c.toNat else d.t2c.toNat - 1) ∧
     t.ifr.getLsbD 6 = (d.ifr.getLsbD 6 || decide (d.t1c.toNat = 1)) ∧
     t.ifr.getLsbD 5 = (d.ifr.getLsbD 5 || (decide (d.t2c.toNat = 1) && !d.acr.getLsbD 5)) ∧
     (∀ k < 5, t.ifr.getLsbD k = d.ifr.getLsbD k) ∧
     (t.ifr.getLsbD 7 = true ↔ ∃ k < 7, t.ifr.getLsbD k = true ∧ d.ier.getLsbD k = true) ∧
     t = { d with t1c := t.t1c, t2c := t.t2c, ifr := t.ifr })

/-- Timer 1 in free-run mode expires every L ticks exactly: started from its latch L ≥ 1, after k ticks the counter has L minus
k mod L left, and the flag, clear at the start, is set from the L-th tick on; from any tick on the next expiry is the next
multiple of L (R319). -/
def Obligations.Timer1FreeRunPeriod : Prop :=
  ∀ (d : Via) (L k : Nat), 1 ≤ L → d.t1lH.toNat * 256 + d.t1lL.toNat = L → d.t1c.toNat = L → d.acr.getLsbD 6 = true →
    (Via.tick^[k] d).t1c.toNat = L - k % L ∧
    (Via.tick^[k] d).ifr.getLsbD 6 = (d.ifr.getLsbD 6 || decide (L ≤ k)) ∧
    ((Via.tick^[k] d).clearIfr 0x40).tick.ifr.getLsbD 6 = decide ((k + 1) % L = 0)

/-- The timers as one-shots: started at n ≥ 1 a timer sets its flag at the n-th tick and not before, and then stays at 0
(R318, R319); timer 2 stands still in the pulse-counting mode (decision D31). -/
def Obligations.OneShotTimers : Prop :=
  ∀ (d : Via) (k : Nat),
    (d.acr.getLsbD 6 = false → 1 ≤ d.t1c.toNat →
      (Via.tick^[k] d).t1c.toNat = d.t1c.toNat - k ∧
      (Via.tick^[k] d).ifr.getLsbD 6 = (d.ifr.getLsbD 6 || decide (d.t1c.toNat ≤ k))) ∧
    (d.acr.getLsbD 5 = false → 1 ≤ d.t2c.toNat →
      (Via.tick^[k] d).t2c.toNat = d.t2c.toNat - k ∧
      (Via.tick^[k] d).ifr.getLsbD 5 = (d.ifr.getLsbD 5 || decide (d.t2c.toNat ≤ k))) ∧
    (d.acr.getLsbD 5 = true →
      (Via.tick^[k] d).t2c = d.t2c ∧ (Via.tick^[k] d).ifr.getLsbD 5 = d.ifr.getLsbD 5)

/-- R321, R329, R330: the tick takes the supplied bytes in order up to the capacity, sets OVRN if one did not fit and RDRF if the
FIFO is not empty; a data read takes the oldest byte, clears RDRF with the last one, and from an empty FIFO returns 0 and
changes nothing; the line is true exactly while command bit 7 is 0 and the FIFO is not empty. -/
def Obligations.AciaReceive : Prop :=
  ∀ s : State,
    (∀ (capacity : Nat) (d : Acia), d.rxFifo.length ≤ capacity →
      (let all := d.rxFifo ++ d.incoming
       let t := d.tick capacity
       t.rxFifo = all.take capacity ∧ t.incoming = [] ∧
       t.status.getLsbD 2 = (d.status.getLsbD 2 || decide (capacity < all.length)) ∧
       t.status.getLsbD 3 = (d.status.getLsbD 3 || decide (0 < t.rxFifo.length)) ∧
       (∀ k, k ≠ 2 → k ≠ 3 → t.status.getLsbD k = d.status.getLsbD k) ∧
       t = { d with rxFifo := t.rxFifo, incoming := t.incoming, status := t.status })) ∧
    (s.config.aciaPresent = true → s.acia.rxFifo = [] → busRead 0x5000 s = .ok (0x00, s)) ∧
    (s.config.aciaPresent = true → ∀ (b : Byte) (rest : List Byte), s.acia.rxFifo = b :: rest →
      busRead 0x5000 s = .ok (b, { s with acia := { s.acia with
        rxFifo := rest, status := if rest = [] then s.acia.status &&& 0xF7 else s.acia.status } })) ∧
    (s.acia.hasIrq = true ↔ s.acia.command.getLsbD 7 = false ∧ s.acia.rxFifo ≠ [])

/-- The other accesses to the ACIA: transmit (R322, decision D20), status (R323, decision D16), programmed reset (R324,
decision D15: command and control back to their construction values, by default 0x00), command and control (R325, R326, decision D17). -/
def Obligations.AciaRegisters : Prop :=
  ∀ (v : Byte) (s : State), s.config.aciaPresent = true →
    busWrite 0x5000 v s = .ok { s with acia := { s.acia with txOut := s.acia.txOut ++ [v], status := s.acia.status ||| 0x10 } } ∧
    busWrite 0x5001 v s = .ok { s with acia := { s.acia with status := 0x10, rxFifo := [], command := s.config.aciaCommandPowerOn, control := s.config.aciaControlPowerOn } } ∧
    busWrite 0x5002 v s = .ok { s with acia := { s.acia with command := v } } ∧
    busWrite 0x5003 v s = .ok { s with acia := { s.acia with control := v } } ∧
    (∃ r : Byte, busRead 0x5001 s = .ok (r, s) ∧ (∀ k < 7, r.getLsbD k = s.acia.status.getLsbD k) ∧
      r.getLsbD 7 = if s.config.aciaStatusBit7 = .mirrorIrq then s.acia.hasIrq else s.acia.status.getLsbD 7) ∧
    busRead 0x5002 s = .ok (if s.config.aciaCmdctlReadback = .stored then s.acia.command else 0x00, s) ∧
    busRead 0x5003 s = .ok (if s.config.aciaCmdctlReadback = .stored then s.acia.control else 0x00, s)

/-! ## Whole-machine rules -/

/-- Every step keeps the invariant `Inv`, whatever the host does and whatever the parameters are, the VIA's power-on IFR being 0. -/
def Obligations.StepKeepsInvariant : Prop := ∀ s t : State, Inv s → step s = .next t → Inv t

/-- The state after reset meets the invariant, and stored U is 1 in it. -/
def Obligations.ResetMeetsInvariant : Prop := Inv State.reset ∧ State.reset.flag .u = true

/-- No step of any agent changes a ROM byte, short of a new power-on (R31, R71). -/
def Obligations.StepKeepsRom : Prop :=
  ∀ (s t : State) (a : Addr), isRom a = true → (∀ h ∈ s.hostInput.headD [], ∀ images, h ≠ .powerOn images) →
    step s = .next t → t.byteAt a = s.byteAt a

/-- A program cannot observe stored B or U (R23): two machines that differ in them alone step to machines that differ in them
alone, or to the same fault. -/
def Obligations.StoredBUnobservable : Prop :=
  ∀ s t : State, s.withoutBU = t.withoutBU → mapNext State.withoutBU (step s) = mapNext State.withoutBU (step t)

/-- Stored U, once 1, stays 1 over every step short of a new power-on (R23); and a step counts exactly one cycle (R5). -/
def Obligations.StoredUAndCycleCount : Prop :=
  ∀ s t : State, (∀ h ∈ s.hostInput.headD [], ∀ images, h ≠ .powerOn images) → step s = .next t →
    (s.flag .u = true → t.flag .u = true) ∧ t.cycleCount = s.cycleCount + 1

/-- No step is refused, and every fault is an access to an unmapped address, which it names (R280, R281, R283;
decisions D3, D28). -/
def Obligations.OnlyUnmappedAccessesFault : Prop :=
  ∀ s : State, (∀ r, step s ≠ .refused r) ∧
    (∀ f, step s = .fault f → ∃ a, f = .outOfRange a ∧ mapped s.config a = false)

/-- The state after reset is power-on with no image and then the immediate reset (R341; its values are decisions D10, D13, D14,
D15, D23, logs 3 to 8). And what each of the host's actions does, from every state (R38, decisions D10, D11, D20, D21): a power-on
gives the values of R39, the parameters' where they are parameters, with the images in ROM; that it keeps the parameters and
the host's later actions and drops supplied bytes not yet taken is the model's choice (DESIGN CHOICE of logs 2
and 13), as is the unused data latch (log 6). And a step performs the actions due, the head of `hostInput` (log 2), in the listed
order, on the state with that head removed and before its CPU step; no action fails. -/
def Obligations.ResetAndHostActions : Prop :=
  HostAction.resetImmediate.perform (State.powerOn defaultConfig [] []) = .ok State.reset ∧
  ∀ (s : State) (v : Byte) (bytes : List Byte) (images : List (Addr × List Byte)),
    (HostAction.powerOn images).perform s = .ok {
      config := s.config, hostInput := s.hostInput
      a := 0, x := 0, y := 0, sp := s.config.spPowerOn, pc := 0x0000, p := 0x00
      resetPending := false, nmiPending := false, nmiLastHigh := true, irqPending := false, waiting := false, halted := false
      pendingCycles := 0, cycleCount := 0, lastIrqVia := false, lastIrqAcia := false
      mem := Memory.loadImages [] images
      via := s.config.viaPowerOn
      acia := {
        status := 0x10, command := s.config.aciaCommandPowerOn, control := s.config.aciaControlPowerOn, dataLatch := 0x00
        rxFifo := [], incoming := [], txOut := [] } } ∧
    HostAction.resetImmediate.perform s = resetSequence 0 s ∧
    HostAction.requestReset.perform s = .ok { s with resetPending := true } ∧
    (HostAction.setNmiLine false).perform s =
      .ok { s with nmiPending := s.nmiPending || s.nmiLastHigh, nmiLastHigh := false } ∧
    (HostAction.setNmiLine true).perform s = .ok { s with nmiLastHigh := true } ∧
    (∃ r : Byte, (HostAction.setPortAInput v).perform s = .ok { s with via := { s.via with ora := r } } ∧
      ∀ k, r.getLsbD k = if s.via.ddra.getLsbD k then s.via.ora.getLsbD k else v.getLsbD k) ∧
    (∃ r : Byte, (HostAction.setPortBInput v).perform s = .ok { s with via := { s.via with orb := r } } ∧
      ∀ k, r.getLsbD k = if s.via.ddrb.getLsbD k then s.via.orb.getLsbD k else v.getLsbD k) ∧
    (s.config.aciaPresent = true → (HostAction.supplyRx bytes).perform s =
      .ok { s with acia := { s.acia with incoming := s.acia.incoming ++ bytes } }) ∧
    (s.config.aciaPresent = false → (HostAction.supplyRx bytes).perform s = .ok s) ∧
    ∃ u, (s.hostInput.headD []).foldlM (fun t h => h.perform t) (s.setHostInput s.hostInput.tail) = .ok u ∧
      performDue s = .ok u ∧
      step s = mapNext (fun t => (busTick t).setCycleCount (t.cycleCount + 1)) (cpuStep u)
end

