-- ==== Sys2Proof/Laws/Memory.lean ====
section
/-! SUPPORT. The laws of memory: a read after a write, the canonical form kept by every operation. -/

namespace Sys2Proof.Machine

namespace Memory

@[simp] theorem read_nil (a : Nat) : Memory.read [] a = 0 := rfl

/-- An address below every listed one reads as unlisted. -/
theorem read_of_lt_all {m : Memory} {a : Nat} (h : ∀ c ∈ m, a < c.1) : m.read a = 0 := by
  induction m with
  | nil => rfl
  | cons c m ih =>
    have hc := h c (by simp)
    simp only [Memory.read, if_neg (Nat.ne_of_lt hc)]
    exact ih fun d hd => h d (by simp [hd])

/-- A write leaves every other address alone, whatever the list. -/
theorem read_write_other {m : Memory} {a b : Nat} (v : Byte) (h : b ≠ a) : (m.write a v).read b = m.read b := by
  induction m with
  | nil =>
    simp only [Memory.write]
    split <;> simp [Memory.read, h]
  | cons c m ih =>
    simp only [Memory.write]
    split
    · split <;> simp [Memory.read, h]
    · split
      · next hca =>
        subst hca
        split <;> simp [Memory.read, h]
      · simp only [Memory.read, ih]

/-- A read after a write to the same address gives the byte written. -/
theorem read_write_same {m : Memory} (hm : m.wf) (a : Nat) (v : Byte) : (m.write a v).read a = v := by
  induction m with
  | nil =>
    simp only [Memory.write]
    split
    · simp_all
    · simp [Memory.read]
  | cons c m ih =>
    obtain ⟨hp, hz⟩ := hm
    obtain ⟨hc, hp⟩ := List.pairwise_cons.1 hp
    simp only [Memory.write]
    split
    · next hlt =>
      split
      · next hv =>
        subst hv
        exact read_of_lt_all fun d hd => by
          rcases List.mem_cons.1 hd with rfl | hd
          · exact hlt
          · exact Nat.lt_trans hlt (hc d hd)
      · simp [Memory.read]
    · split
      · next hca =>
        subst hca
        split
        · next hv =>
          subst hv
          exact read_of_lt_all hc
        · simp [Memory.read]
      · next hca =>
        simp only [Memory.read, if_neg hca]
        exact ih ⟨hp, fun d hd => hz d (by simp [hd])⟩

/-- Where the cells of a written memory come from. -/
theorem mem_write {m : Memory} {a : Nat} {v : Byte} {c : Host.Cell} (h : c ∈ m.write a v) :
    c ∈ m ∨ (c = (a, v) ∧ v ≠ 0) := by
  induction m with
  | nil =>
    simp only [Memory.write] at h
    split at h
    · simp at h
    · next hv => exact .inr ⟨by simpa using h, hv⟩
  | cons d m ih =>
    simp only [Memory.write] at h
    split at h
    · split at h
      · exact .inl h
      · next hv =>
        rcases List.mem_cons.1 h with h | h
        · exact .inr ⟨h, hv⟩
        · exact .inl h
    · split at h
      · split at h
        · exact .inl (by simp [h])
        · next hv =>
          rcases List.mem_cons.1 h with h | h
          · exact .inr ⟨h, hv⟩
          · exact .inl (by simp [h])
      · rcases List.mem_cons.1 h with h | h
        · exact .inl (by simp [h])
        · rcases ih h with h | h
          · exact .inl (by simp [h])
          · exact .inr h

/-- A write keeps the canonical form. -/
theorem write_wf {m : Memory} (hm : m.wf) (a : Nat) (v : Byte) : (m.write a v).wf := by
  refine ⟨?_, fun c hc => ?_⟩
  · obtain ⟨hp, -⟩ := hm
    induction m with
    | nil =>
      simp only [Memory.write]
      split <;> simp
    | cons d m ih =>
      obtain ⟨hd, hp'⟩ := List.pairwise_cons.1 hp
      simp only [Memory.write]
      split
      · next hlt =>
        split
        · exact hp
        · refine List.pairwise_cons.2 ⟨fun e he => ?_, hp⟩
          rcases List.mem_cons.1 he with rfl | he
          · exact hlt
          · exact Nat.lt_trans hlt (hd e he)
      · split
        · next hda =>
          split
          · exact hp'
          · exact List.pairwise_cons.2 ⟨fun e he => by simpa [hda] using hd e he, hp'⟩
        · next hnlt hne =>
          refine List.pairwise_cons.2 ⟨fun e he => ?_, ih hp'⟩
          rcases mem_write he with he | ⟨rfl, -⟩
          · exact hd e he
          · show d.1 < a
            omega
  · rcases mem_write hc with hc | ⟨rfl, hv⟩
    · exact hm.2 c hc
    · exact hv

/-- A write to an address of RAM or ROM keeps every cell in the map. -/
theorem write_inMap {m : Memory} (hm : m.inMap) {a : Addr} (ha : isPlain a = true) (v : Byte) :
    (m.write a.toNat v).inMap := by
  intro c hc
  rcases mem_write hc with hc | ⟨rfl, -⟩
  · exact hm c hc
  · have := a.isLt
    simp only [isPlain, isRam, isRom, Bool.or_eq_true, decide_eq_true_eq] at ha
    omega

theorem loadImage_wf (bytes : List Byte) : ∀ {m : Memory} (a : Nat), m.wf → (m.loadImage a bytes).wf := by
  induction bytes with
  | nil => exact fun _ h => h
  | cons v rest ih =>
    intro m a h
    simp only [Memory.loadImage]
    split
    · exact ih _ (write_wf h a v)
    · exact ih _ h

theorem loadImage_inMap (bytes : List Byte) : ∀ {m : Memory} (a : Nat), m.inMap → (m.loadImage a bytes).inMap := by
  induction bytes with
  | nil => exact fun _ h => h
  | cons v rest ih =>
    intro m a h
    simp only [Memory.loadImage]
    split
    · next ha =>
      refine ih _ fun c hc => ?_
      rcases mem_write hc with hc | ⟨rfl, -⟩
      · exact h c hc
      · exact .inr ha
    · exact ih _ h

theorem loadImages_wf (images : List (Addr × List Byte)) : ∀ {m : Memory}, m.wf → (m.loadImages images).wf := by
  induction images with
  | nil => exact fun h => h
  | cons i rest ih => exact fun h => ih (loadImage_wf i.2 i.1.toNat h)

theorem loadImages_inMap (images : List (Addr × List Byte)) :
    ∀ {m : Memory}, m.inMap → (m.loadImages images).inMap := by
  induction images with
  | nil => exact fun h => h
  | cons i rest ih => exact fun h => ih (loadImage_inMap i.2 i.1.toNat h)

/-- Loading images never touches an address outside ROM (20_memory.md R72). -/
theorem read_loadImage_of_not_rom (bytes : List Byte) {b : Nat} (hb : b < 0x8000) :
    ∀ {m : Memory} (a : Nat), (m.loadImage a bytes).read b = m.read b := by
  induction bytes with
  | nil => exact fun _ => rfl
  | cons v rest ih =>
    intro m a
    simp only [Memory.loadImage, ih]
    split
    · exact read_write_other v (by omega)
    · rfl

end Memory

end Sys2Proof.Machine
end

