-- ==== Sys2Proof/Laws/State.lean ====
section
/-! SUPPORT. One lemma per field per update of State, and what the flag updates do, so that no proof unfolds a record update. -/

namespace Sys2Proof.Machine

@[simp] theorem State.setA_config (v : Byte) (s : State) : (s.setA v).config = s.config := rfl
@[simp] theorem State.setA_a (v : Byte) (s : State) : (s.setA v).a = v := rfl
@[simp] theorem State.setA_x (v : Byte) (s : State) : (s.setA v).x = s.x := rfl
@[simp] theorem State.setA_y (v : Byte) (s : State) : (s.setA v).y = s.y := rfl
@[simp] theorem State.setA_sp (v : Byte) (s : State) : (s.setA v).sp = s.sp := rfl
@[simp] theorem State.setA_pc (v : Byte) (s : State) : (s.setA v).pc = s.pc := rfl
@[simp] theorem State.setA_p (v : Byte) (s : State) : (s.setA v).p = s.p := rfl
@[simp] theorem State.setA_resetPending (v : Byte) (s : State) : (s.setA v).resetPending = s.resetPending := rfl
@[simp] theorem State.setA_nmiPending (v : Byte) (s : State) : (s.setA v).nmiPending = s.nmiPending := rfl
@[simp] theorem State.setA_nmiLastHigh (v : Byte) (s : State) : (s.setA v).nmiLastHigh = s.nmiLastHigh := rfl
@[simp] theorem State.setA_irqPending (v : Byte) (s : State) : (s.setA v).irqPending = s.irqPending := rfl
@[simp] theorem State.setA_waiting (v : Byte) (s : State) : (s.setA v).waiting = s.waiting := rfl
@[simp] theorem State.setA_halted (v : Byte) (s : State) : (s.setA v).halted = s.halted := rfl
@[simp] theorem State.setA_pendingCycles (v : Byte) (s : State) : (s.setA v).pendingCycles = s.pendingCycles := rfl
@[simp] theorem State.setA_lastIrqVia (v : Byte) (s : State) : (s.setA v).lastIrqVia = s.lastIrqVia := rfl
@[simp] theorem State.setA_lastIrqAcia (v : Byte) (s : State) : (s.setA v).lastIrqAcia = s.lastIrqAcia := rfl
@[simp] theorem State.setA_mem (v : Byte) (s : State) : (s.setA v).mem = s.mem := rfl
@[simp] theorem State.setA_via (v : Byte) (s : State) : (s.setA v).via = s.via := rfl
@[simp] theorem State.setA_acia (v : Byte) (s : State) : (s.setA v).acia = s.acia := rfl
@[simp] theorem State.setA_cycleCount (v : Byte) (s : State) : (s.setA v).cycleCount = s.cycleCount := rfl
@[simp] theorem State.setA_hostInput (v : Byte) (s : State) : (s.setA v).hostInput = s.hostInput := rfl

@[simp] theorem State.setX_config (v : Byte) (s : State) : (s.setX v).config = s.config := rfl
@[simp] theorem State.setX_a (v : Byte) (s : State) : (s.setX v).a = s.a := rfl
@[simp] theorem State.setX_x (v : Byte) (s : State) : (s.setX v).x = v := rfl
@[simp] theorem State.setX_y (v : Byte) (s : State) : (s.setX v).y = s.y := rfl
@[simp] theorem State.setX_sp (v : Byte) (s : State) : (s.setX v).sp = s.sp := rfl
@[simp] theorem State.setX_pc (v : Byte) (s : State) : (s.setX v).pc = s.pc := rfl
@[simp] theorem State.setX_p (v : Byte) (s : State) : (s.setX v).p = s.p := rfl
@[simp] theorem State.setX_resetPending (v : Byte) (s : State) : (s.setX v).resetPending = s.resetPending := rfl
@[simp] theorem State.setX_nmiPending (v : Byte) (s : State) : (s.setX v).nmiPending = s.nmiPending := rfl
@[simp] theorem State.setX_nmiLastHigh (v : Byte) (s : State) : (s.setX v).nmiLastHigh = s.nmiLastHigh := rfl
@[simp] theorem State.setX_irqPending (v : Byte) (s : State) : (s.setX v).irqPending = s.irqPending := rfl
@[simp] theorem State.setX_waiting (v : Byte) (s : State) : (s.setX v).waiting = s.waiting := rfl
@[simp] theorem State.setX_halted (v : Byte) (s : State) : (s.setX v).halted = s.halted := rfl
@[simp] theorem State.setX_pendingCycles (v : Byte) (s : State) : (s.setX v).pendingCycles = s.pendingCycles := rfl
@[simp] theorem State.setX_lastIrqVia (v : Byte) (s : State) : (s.setX v).lastIrqVia = s.lastIrqVia := rfl
@[simp] theorem State.setX_lastIrqAcia (v : Byte) (s : State) : (s.setX v).lastIrqAcia = s.lastIrqAcia := rfl
@[simp] theorem State.setX_mem (v : Byte) (s : State) : (s.setX v).mem = s.mem := rfl
@[simp] theorem State.setX_via (v : Byte) (s : State) : (s.setX v).via = s.via := rfl
@[simp] theorem State.setX_acia (v : Byte) (s : State) : (s.setX v).acia = s.acia := rfl
@[simp] theorem State.setX_cycleCount (v : Byte) (s : State) : (s.setX v).cycleCount = s.cycleCount := rfl
@[simp] theorem State.setX_hostInput (v : Byte) (s : State) : (s.setX v).hostInput = s.hostInput := rfl

@[simp] theorem State.setY_config (v : Byte) (s : State) : (s.setY v).config = s.config := rfl
@[simp] theorem State.setY_a (v : Byte) (s : State) : (s.setY v).a = s.a := rfl
@[simp] theorem State.setY_x (v : Byte) (s : State) : (s.setY v).x = s.x := rfl
@[simp] theorem State.setY_y (v : Byte) (s : State) : (s.setY v).y = v := rfl
@[simp] theorem State.setY_sp (v : Byte) (s : State) : (s.setY v).sp = s.sp := rfl
@[simp] theorem State.setY_pc (v : Byte) (s : State) : (s.setY v).pc = s.pc := rfl
@[simp] theorem State.setY_p (v : Byte) (s : State) : (s.setY v).p = s.p := rfl
@[simp] theorem State.setY_resetPending (v : Byte) (s : State) : (s.setY v).resetPending = s.resetPending := rfl
@[simp] theorem State.setY_nmiPending (v : Byte) (s : State) : (s.setY v).nmiPending = s.nmiPending := rfl
@[simp] theorem State.setY_nmiLastHigh (v : Byte) (s : State) : (s.setY v).nmiLastHigh = s.nmiLastHigh := rfl
@[simp] theorem State.setY_irqPending (v : Byte) (s : State) : (s.setY v).irqPending = s.irqPending := rfl
@[simp] theorem State.setY_waiting (v : Byte) (s : State) : (s.setY v).waiting = s.waiting := rfl
@[simp] theorem State.setY_halted (v : Byte) (s : State) : (s.setY v).halted = s.halted := rfl
@[simp] theorem State.setY_pendingCycles (v : Byte) (s : State) : (s.setY v).pendingCycles = s.pendingCycles := rfl
@[simp] theorem State.setY_lastIrqVia (v : Byte) (s : State) : (s.setY v).lastIrqVia = s.lastIrqVia := rfl
@[simp] theorem State.setY_lastIrqAcia (v : Byte) (s : State) : (s.setY v).lastIrqAcia = s.lastIrqAcia := rfl
@[simp] theorem State.setY_mem (v : Byte) (s : State) : (s.setY v).mem = s.mem := rfl
@[simp] theorem State.setY_via (v : Byte) (s : State) : (s.setY v).via = s.via := rfl
@[simp] theorem State.setY_acia (v : Byte) (s : State) : (s.setY v).acia = s.acia := rfl
@[simp] theorem State.setY_cycleCount (v : Byte) (s : State) : (s.setY v).cycleCount = s.cycleCount := rfl
@[simp] theorem State.setY_hostInput (v : Byte) (s : State) : (s.setY v).hostInput = s.hostInput := rfl

@[simp] theorem State.setSp_config (v : Byte) (s : State) : (s.setSp v).config = s.config := rfl
@[simp] theorem State.setSp_a (v : Byte) (s : State) : (s.setSp v).a = s.a := rfl
@[simp] theorem State.setSp_x (v : Byte) (s : State) : (s.setSp v).x = s.x := rfl
@[simp] theorem State.setSp_y (v : Byte) (s : State) : (s.setSp v).y = s.y := rfl
@[simp] theorem State.setSp_sp (v : Byte) (s : State) : (s.setSp v).sp = v := rfl
@[simp] theorem State.setSp_pc (v : Byte) (s : State) : (s.setSp v).pc = s.pc := rfl
@[simp] theorem State.setSp_p (v : Byte) (s : State) : (s.setSp v).p = s.p := rfl
@[simp] theorem State.setSp_resetPending (v : Byte) (s : State) : (s.setSp v).resetPending = s.resetPending := rfl
@[simp] theorem State.setSp_nmiPending (v : Byte) (s : State) : (s.setSp v).nmiPending = s.nmiPending := rfl
@[simp] theorem State.setSp_nmiLastHigh (v : Byte) (s : State) : (s.setSp v).nmiLastHigh = s.nmiLastHigh := rfl
@[simp] theorem State.setSp_irqPending (v : Byte) (s : State) : (s.setSp v).irqPending = s.irqPending := rfl
@[simp] theorem State.setSp_waiting (v : Byte) (s : State) : (s.setSp v).waiting = s.waiting := rfl
@[simp] theorem State.setSp_halted (v : Byte) (s : State) : (s.setSp v).halted = s.halted := rfl
@[simp] theorem State.setSp_pendingCycles (v : Byte) (s : State) : (s.setSp v).pendingCycles = s.pendingCycles := rfl
@[simp] theorem State.setSp_lastIrqVia (v : Byte) (s : State) : (s.setSp v).lastIrqVia = s.lastIrqVia := rfl
@[simp] theorem State.setSp_lastIrqAcia (v : Byte) (s : State) : (s.setSp v).lastIrqAcia = s.lastIrqAcia := rfl
@[simp] theorem State.setSp_mem (v : Byte) (s : State) : (s.setSp v).mem = s.mem := rfl
@[simp] theorem State.setSp_via (v : Byte) (s : State) : (s.setSp v).via = s.via := rfl
@[simp] theorem State.setSp_acia (v : Byte) (s : State) : (s.setSp v).acia = s.acia := rfl
@[simp] theorem State.setSp_cycleCount (v : Byte) (s : State) : (s.setSp v).cycleCount = s.cycleCount := rfl
@[simp] theorem State.setSp_hostInput (v : Byte) (s : State) : (s.setSp v).hostInput = s.hostInput := rfl

@[simp] theorem State.setPc_config (v : Addr) (s : State) : (s.setPc v).config = s.config := rfl
@[simp] theorem State.setPc_a (v : Addr) (s : State) : (s.setPc v).a = s.a := rfl
@[simp] theorem State.setPc_x (v : Addr) (s : State) : (s.setPc v).x = s.x := rfl
@[simp] theorem State.setPc_y (v : Addr) (s : State) : (s.setPc v).y = s.y := rfl
@[simp] theorem State.setPc_sp (v : Addr) (s : State) : (s.setPc v).sp = s.sp := rfl
@[simp] theorem State.setPc_pc (v : Addr) (s : State) : (s.setPc v).pc = v := rfl
@[simp] theorem State.setPc_p (v : Addr) (s : State) : (s.setPc v).p = s.p := rfl
@[simp] theorem State.setPc_resetPending (v : Addr) (s : State) : (s.setPc v).resetPending = s.resetPending := rfl
@[simp] theorem State.setPc_nmiPending (v : Addr) (s : State) : (s.setPc v).nmiPending = s.nmiPending := rfl
@[simp] theorem State.setPc_nmiLastHigh (v : Addr) (s : State) : (s.setPc v).nmiLastHigh = s.nmiLastHigh := rfl
@[simp] theorem State.setPc_irqPending (v : Addr) (s : State) : (s.setPc v).irqPending = s.irqPending := rfl
@[simp] theorem State.setPc_waiting (v : Addr) (s : State) : (s.setPc v).waiting = s.waiting := rfl
@[simp] theorem State.setPc_halted (v : Addr) (s : State) : (s.setPc v).halted = s.halted := rfl
@[simp] theorem State.setPc_pendingCycles (v : Addr) (s : State) : (s.setPc v).pendingCycles = s.pendingCycles := rfl
@[simp] theorem State.setPc_lastIrqVia (v : Addr) (s : State) : (s.setPc v).lastIrqVia = s.lastIrqVia := rfl
@[simp] theorem State.setPc_lastIrqAcia (v : Addr) (s : State) : (s.setPc v).lastIrqAcia = s.lastIrqAcia := rfl
@[simp] theorem State.setPc_mem (v : Addr) (s : State) : (s.setPc v).mem = s.mem := rfl
@[simp] theorem State.setPc_via (v : Addr) (s : State) : (s.setPc v).via = s.via := rfl
@[simp] theorem State.setPc_acia (v : Addr) (s : State) : (s.setPc v).acia = s.acia := rfl
@[simp] theorem State.setPc_cycleCount (v : Addr) (s : State) : (s.setPc v).cycleCount = s.cycleCount := rfl
@[simp] theorem State.setPc_hostInput (v : Addr) (s : State) : (s.setPc v).hostInput = s.hostInput := rfl

@[simp] theorem State.setP_config (v : Byte) (s : State) : (s.setP v).config = s.config := rfl
@[simp] theorem State.setP_a (v : Byte) (s : State) : (s.setP v).a = s.a := rfl
@[simp] theorem State.setP_x (v : Byte) (s : State) : (s.setP v).x = s.x := rfl
@[simp] theorem State.setP_y (v : Byte) (s : State) : (s.setP v).y = s.y := rfl
@[simp] theorem State.setP_sp (v : Byte) (s : State) : (s.setP v).sp = s.sp := rfl
@[simp] theorem State.setP_pc (v : Byte) (s : State) : (s.setP v).pc = s.pc := rfl
@[simp] theorem State.setP_p (v : Byte) (s : State) : (s.setP v).p = v := rfl
@[simp] theorem State.setP_resetPending (v : Byte) (s : State) : (s.setP v).resetPending = s.resetPending := rfl
@[simp] theorem State.setP_nmiPending (v : Byte) (s : State) : (s.setP v).nmiPending = s.nmiPending := rfl
@[simp] theorem State.setP_nmiLastHigh (v : Byte) (s : State) : (s.setP v).nmiLastHigh = s.nmiLastHigh := rfl
@[simp] theorem State.setP_irqPending (v : Byte) (s : State) : (s.setP v).irqPending = s.irqPending := rfl
@[simp] theorem State.setP_waiting (v : Byte) (s : State) : (s.setP v).waiting = s.waiting := rfl
@[simp] theorem State.setP_halted (v : Byte) (s : State) : (s.setP v).halted = s.halted := rfl
@[simp] theorem State.setP_pendingCycles (v : Byte) (s : State) : (s.setP v).pendingCycles = s.pendingCycles := rfl
@[simp] theorem State.setP_lastIrqVia (v : Byte) (s : State) : (s.setP v).lastIrqVia = s.lastIrqVia := rfl
@[simp] theorem State.setP_lastIrqAcia (v : Byte) (s : State) : (s.setP v).lastIrqAcia = s.lastIrqAcia := rfl
@[simp] theorem State.setP_mem (v : Byte) (s : State) : (s.setP v).mem = s.mem := rfl
@[simp] theorem State.setP_via (v : Byte) (s : State) : (s.setP v).via = s.via := rfl
@[simp] theorem State.setP_acia (v : Byte) (s : State) : (s.setP v).acia = s.acia := rfl
@[simp] theorem State.setP_cycleCount (v : Byte) (s : State) : (s.setP v).cycleCount = s.cycleCount := rfl
@[simp] theorem State.setP_hostInput (v : Byte) (s : State) : (s.setP v).hostInput = s.hostInput := rfl

@[simp] theorem State.setResetPending_config (v : Bool) (s : State) : (s.setResetPending v).config = s.config := rfl
@[simp] theorem State.setResetPending_a (v : Bool) (s : State) : (s.setResetPending v).a = s.a := rfl
@[simp] theorem State.setResetPending_x (v : Bool) (s : State) : (s.setResetPending v).x = s.x := rfl
@[simp] theorem State.setResetPending_y (v : Bool) (s : State) : (s.setResetPending v).y = s.y := rfl
@[simp] theorem State.setResetPending_sp (v : Bool) (s : State) : (s.setResetPending v).sp = s.sp := rfl
@[simp] theorem State.setResetPending_pc (v : Bool) (s : State) : (s.setResetPending v).pc = s.pc := rfl
@[simp] theorem State.setResetPending_p (v : Bool) (s : State) : (s.setResetPending v).p = s.p := rfl
@[simp] theorem State.setResetPending_resetPending (v : Bool) (s : State) : (s.setResetPending v).resetPending = v := rfl
@[simp] theorem State.setResetPending_nmiPending (v : Bool) (s : State) : (s.setResetPending v).nmiPending = s.nmiPending := rfl
@[simp] theorem State.setResetPending_nmiLastHigh (v : Bool) (s : State) : (s.setResetPending v).nmiLastHigh = s.nmiLastHigh := rfl
@[simp] theorem State.setResetPending_irqPending (v : Bool) (s : State) : (s.setResetPending v).irqPending = s.irqPending := rfl
@[simp] theorem State.setResetPending_waiting (v : Bool) (s : State) : (s.setResetPending v).waiting = s.waiting := rfl
@[simp] theorem State.setResetPending_halted (v : Bool) (s : State) : (s.setResetPending v).halted = s.halted := rfl
@[simp] theorem State.setResetPending_pendingCycles (v : Bool) (s : State) : (s.setResetPending v).pendingCycles = s.pendingCycles := rfl
@[simp] theorem State.setResetPending_lastIrqVia (v : Bool) (s : State) : (s.setResetPending v).lastIrqVia = s.lastIrqVia := rfl
@[simp] theorem State.setResetPending_lastIrqAcia (v : Bool) (s : State) : (s.setResetPending v).lastIrqAcia = s.lastIrqAcia := rfl
@[simp] theorem State.setResetPending_mem (v : Bool) (s : State) : (s.setResetPending v).mem = s.mem := rfl
@[simp] theorem State.setResetPending_via (v : Bool) (s : State) : (s.setResetPending v).via = s.via := rfl
@[simp] theorem State.setResetPending_acia (v : Bool) (s : State) : (s.setResetPending v).acia = s.acia := rfl
@[simp] theorem State.setResetPending_cycleCount (v : Bool) (s : State) : (s.setResetPending v).cycleCount = s.cycleCount := rfl
@[simp] theorem State.setResetPending_hostInput (v : Bool) (s : State) : (s.setResetPending v).hostInput = s.hostInput := rfl

@[simp] theorem State.setNmiPending_config (v : Bool) (s : State) : (s.setNmiPending v).config = s.config := rfl
@[simp] theorem State.setNmiPending_a (v : Bool) (s : State) : (s.setNmiPending v).a = s.a := rfl
@[simp] theorem State.setNmiPending_x (v : Bool) (s : State) : (s.setNmiPending v).x = s.x := rfl
@[simp] theorem State.setNmiPending_y (v : Bool) (s : State) : (s.setNmiPending v).y = s.y := rfl
@[simp] theorem State.setNmiPending_sp (v : Bool) (s : State) : (s.setNmiPending v).sp = s.sp := rfl
@[simp] theorem State.setNmiPending_pc (v : Bool) (s : State) : (s.setNmiPending v).pc = s.pc := rfl
@[simp] theorem State.setNmiPending_p (v : Bool) (s : State) : (s.setNmiPending v).p = s.p := rfl
@[simp] theorem State.setNmiPending_resetPending (v : Bool) (s : State) : (s.setNmiPending v).resetPending = s.resetPending := rfl
@[simp] theorem State.setNmiPending_nmiPending (v : Bool) (s : State) : (s.setNmiPending v).nmiPending = v := rfl
@[simp] theorem State.setNmiPending_nmiLastHigh (v : Bool) (s : State) : (s.setNmiPending v).nmiLastHigh = s.nmiLastHigh := rfl
@[simp] theorem State.setNmiPending_irqPending (v : Bool) (s : State) : (s.setNmiPending v).irqPending = s.irqPending := rfl
@[simp] theorem State.setNmiPending_waiting (v : Bool) (s : State) : (s.setNmiPending v).waiting = s.waiting := rfl
@[simp] theorem State.setNmiPending_halted (v : Bool) (s : State) : (s.setNmiPending v).halted = s.halted := rfl
@[simp] theorem State.setNmiPending_pendingCycles (v : Bool) (s : State) : (s.setNmiPending v).pendingCycles = s.pendingCycles := rfl
@[simp] theorem State.setNmiPending_lastIrqVia (v : Bool) (s : State) : (s.setNmiPending v).lastIrqVia = s.lastIrqVia := rfl
@[simp] theorem State.setNmiPending_lastIrqAcia (v : Bool) (s : State) : (s.setNmiPending v).lastIrqAcia = s.lastIrqAcia := rfl
@[simp] theorem State.setNmiPending_mem (v : Bool) (s : State) : (s.setNmiPending v).mem = s.mem := rfl
@[simp] theorem State.setNmiPending_via (v : Bool) (s : State) : (s.setNmiPending v).via = s.via := rfl
@[simp] theorem State.setNmiPending_acia (v : Bool) (s : State) : (s.setNmiPending v).acia = s.acia := rfl
@[simp] theorem State.setNmiPending_cycleCount (v : Bool) (s : State) : (s.setNmiPending v).cycleCount = s.cycleCount := rfl
@[simp] theorem State.setNmiPending_hostInput (v : Bool) (s : State) : (s.setNmiPending v).hostInput = s.hostInput := rfl

@[simp] theorem State.setNmiLastHigh_config (v : Bool) (s : State) : (s.setNmiLastHigh v).config = s.config := rfl
@[simp] theorem State.setNmiLastHigh_a (v : Bool) (s : State) : (s.setNmiLastHigh v).a = s.a := rfl
@[simp] theorem State.setNmiLastHigh_x (v : Bool) (s : State) : (s.setNmiLastHigh v).x = s.x := rfl
@[simp] theorem State.setNmiLastHigh_y (v : Bool) (s : State) : (s.setNmiLastHigh v).y = s.y := rfl
@[simp] theorem State.setNmiLastHigh_sp (v : Bool) (s : State) : (s.setNmiLastHigh v).sp = s.sp := rfl
@[simp] theorem State.setNmiLastHigh_pc (v : Bool) (s : State) : (s.setNmiLastHigh v).pc = s.pc := rfl
@[simp] theorem State.setNmiLastHigh_p (v : Bool) (s : State) : (s.setNmiLastHigh v).p = s.p := rfl
@[simp] theorem State.setNmiLastHigh_resetPending (v : Bool) (s : State) : (s.setNmiLastHigh v).resetPending = s.resetPending := rfl
@[simp] theorem State.setNmiLastHigh_nmiPending (v : Bool) (s : State) : (s.setNmiLastHigh v).nmiPending = s.nmiPending := rfl
@[simp] theorem State.setNmiLastHigh_nmiLastHigh (v : Bool) (s : State) : (s.setNmiLastHigh v).nmiLastHigh = v := rfl
@[simp] theorem State.setNmiLastHigh_irqPending (v : Bool) (s : State) : (s.setNmiLastHigh v).irqPending = s.irqPending := rfl
@[simp] theorem State.setNmiLastHigh_waiting (v : Bool) (s : State) : (s.setNmiLastHigh v).waiting = s.waiting := rfl
@[simp] theorem State.setNmiLastHigh_halted (v : Bool) (s : State) : (s.setNmiLastHigh v).halted = s.halted := rfl
@[simp] theorem State.setNmiLastHigh_pendingCycles (v : Bool) (s : State) : (s.setNmiLastHigh v).pendingCycles = s.pendingCycles := rfl
@[simp] theorem State.setNmiLastHigh_lastIrqVia (v : Bool) (s : State) : (s.setNmiLastHigh v).lastIrqVia = s.lastIrqVia := rfl
@[simp] theorem State.setNmiLastHigh_lastIrqAcia (v : Bool) (s : State) : (s.setNmiLastHigh v).lastIrqAcia = s.lastIrqAcia := rfl
@[simp] theorem State.setNmiLastHigh_mem (v : Bool) (s : State) : (s.setNmiLastHigh v).mem = s.mem := rfl
@[simp] theorem State.setNmiLastHigh_via (v : Bool) (s : State) : (s.setNmiLastHigh v).via = s.via := rfl
@[simp] theorem State.setNmiLastHigh_acia (v : Bool) (s : State) : (s.setNmiLastHigh v).acia = s.acia := rfl
@[simp] theorem State.setNmiLastHigh_cycleCount (v : Bool) (s : State) : (s.setNmiLastHigh v).cycleCount = s.cycleCount := rfl
@[simp] theorem State.setNmiLastHigh_hostInput (v : Bool) (s : State) : (s.setNmiLastHigh v).hostInput = s.hostInput := rfl

@[simp] theorem State.setIrqPending_config (v : Bool) (s : State) : (s.setIrqPending v).config = s.config := rfl
@[simp] theorem State.setIrqPending_a (v : Bool) (s : State) : (s.setIrqPending v).a = s.a := rfl
@[simp] theorem State.setIrqPending_x (v : Bool) (s : State) : (s.setIrqPending v).x = s.x := rfl
@[simp] theorem State.setIrqPending_y (v : Bool) (s : State) : (s.setIrqPending v).y = s.y := rfl
@[simp] theorem State.setIrqPending_sp (v : Bool) (s : State) : (s.setIrqPending v).sp = s.sp := rfl
@[simp] theorem State.setIrqPending_pc (v : Bool) (s : State) : (s.setIrqPending v).pc = s.pc := rfl
@[simp] theorem State.setIrqPending_p (v : Bool) (s : State) : (s.setIrqPending v).p = s.p := rfl
@[simp] theorem State.setIrqPending_resetPending (v : Bool) (s : State) : (s.setIrqPending v).resetPending = s.resetPending := rfl
@[simp] theorem State.setIrqPending_nmiPending (v : Bool) (s : State) : (s.setIrqPending v).nmiPending = s.nmiPending := rfl
@[simp] theorem State.setIrqPending_nmiLastHigh (v : Bool) (s : State) : (s.setIrqPending v).nmiLastHigh = s.nmiLastHigh := rfl
@[simp] theorem State.setIrqPending_irqPending (v : Bool) (s : State) : (s.setIrqPending v).irqPending = v := rfl
@[simp] theorem State.setIrqPending_waiting (v : Bool) (s : State) : (s.setIrqPending v).waiting = s.waiting := rfl
@[simp] theorem State.setIrqPending_halted (v : Bool) (s : State) : (s.setIrqPending v).halted = s.halted := rfl
@[simp] theorem State.setIrqPending_pendingCycles (v : Bool) (s : State) : (s.setIrqPending v).pendingCycles = s.pendingCycles := rfl
@[simp] theorem State.setIrqPending_lastIrqVia (v : Bool) (s : State) : (s.setIrqPending v).lastIrqVia = s.lastIrqVia := rfl
@[simp] theorem State.setIrqPending_lastIrqAcia (v : Bool) (s : State) : (s.setIrqPending v).lastIrqAcia = s.lastIrqAcia := rfl
@[simp] theorem State.setIrqPending_mem (v : Bool) (s : State) : (s.setIrqPending v).mem = s.mem := rfl
@[simp] theorem State.setIrqPending_via (v : Bool) (s : State) : (s.setIrqPending v).via = s.via := rfl
@[simp] theorem State.setIrqPending_acia (v : Bool) (s : State) : (s.setIrqPending v).acia = s.acia := rfl
@[simp] theorem State.setIrqPending_cycleCount (v : Bool) (s : State) : (s.setIrqPending v).cycleCount = s.cycleCount := rfl
@[simp] theorem State.setIrqPending_hostInput (v : Bool) (s : State) : (s.setIrqPending v).hostInput = s.hostInput := rfl

@[simp] theorem State.setWaiting_config (v : Bool) (s : State) : (s.setWaiting v).config = s.config := rfl
@[simp] theorem State.setWaiting_a (v : Bool) (s : State) : (s.setWaiting v).a = s.a := rfl
@[simp] theorem State.setWaiting_x (v : Bool) (s : State) : (s.setWaiting v).x = s.x := rfl
@[simp] theorem State.setWaiting_y (v : Bool) (s : State) : (s.setWaiting v).y = s.y := rfl
@[simp] theorem State.setWaiting_sp (v : Bool) (s : State) : (s.setWaiting v).sp = s.sp := rfl
@[simp] theorem State.setWaiting_pc (v : Bool) (s : State) : (s.setWaiting v).pc = s.pc := rfl
@[simp] theorem State.setWaiting_p (v : Bool) (s : State) : (s.setWaiting v).p = s.p := rfl
@[simp] theorem State.setWaiting_resetPending (v : Bool) (s : State) : (s.setWaiting v).resetPending = s.resetPending := rfl
@[simp] theorem State.setWaiting_nmiPending (v : Bool) (s : State) : (s.setWaiting v).nmiPending = s.nmiPending := rfl
@[simp] theorem State.setWaiting_nmiLastHigh (v : Bool) (s : State) : (s.setWaiting v).nmiLastHigh = s.nmiLastHigh := rfl
@[simp] theorem State.setWaiting_irqPending (v : Bool) (s : State) : (s.setWaiting v).irqPending = s.irqPending := rfl
@[simp] theorem State.setWaiting_waiting (v : Bool) (s : State) : (s.setWaiting v).waiting = v := rfl
@[simp] theorem State.setWaiting_halted (v : Bool) (s : State) : (s.setWaiting v).halted = s.halted := rfl
@[simp] theorem State.setWaiting_pendingCycles (v : Bool) (s : State) : (s.setWaiting v).pendingCycles = s.pendingCycles := rfl
@[simp] theorem State.setWaiting_lastIrqVia (v : Bool) (s : State) : (s.setWaiting v).lastIrqVia = s.lastIrqVia := rfl
@[simp] theorem State.setWaiting_lastIrqAcia (v : Bool) (s : State) : (s.setWaiting v).lastIrqAcia = s.lastIrqAcia := rfl
@[simp] theorem State.setWaiting_mem (v : Bool) (s : State) : (s.setWaiting v).mem = s.mem := rfl
@[simp] theorem State.setWaiting_via (v : Bool) (s : State) : (s.setWaiting v).via = s.via := rfl
@[simp] theorem State.setWaiting_acia (v : Bool) (s : State) : (s.setWaiting v).acia = s.acia := rfl
@[simp] theorem State.setWaiting_cycleCount (v : Bool) (s : State) : (s.setWaiting v).cycleCount = s.cycleCount := rfl
@[simp] theorem State.setWaiting_hostInput (v : Bool) (s : State) : (s.setWaiting v).hostInput = s.hostInput := rfl

@[simp] theorem State.setHalted_config (v : Bool) (s : State) : (s.setHalted v).config = s.config := rfl
@[simp] theorem State.setHalted_a (v : Bool) (s : State) : (s.setHalted v).a = s.a := rfl
@[simp] theorem State.setHalted_x (v : Bool) (s : State) : (s.setHalted v).x = s.x := rfl
@[simp] theorem State.setHalted_y (v : Bool) (s : State) : (s.setHalted v).y = s.y := rfl
@[simp] theorem State.setHalted_sp (v : Bool) (s : State) : (s.setHalted v).sp = s.sp := rfl
@[simp] theorem State.setHalted_pc (v : Bool) (s : State) : (s.setHalted v).pc = s.pc := rfl
@[simp] theorem State.setHalted_p (v : Bool) (s : State) : (s.setHalted v).p = s.p := rfl
@[simp] theorem State.setHalted_resetPending (v : Bool) (s : State) : (s.setHalted v).resetPending = s.resetPending := rfl
@[simp] theorem State.setHalted_nmiPending (v : Bool) (s : State) : (s.setHalted v).nmiPending = s.nmiPending := rfl
@[simp] theorem State.setHalted_nmiLastHigh (v : Bool) (s : State) : (s.setHalted v).nmiLastHigh = s.nmiLastHigh := rfl
@[simp] theorem State.setHalted_irqPending (v : Bool) (s : State) : (s.setHalted v).irqPending = s.irqPending := rfl
@[simp] theorem State.setHalted_waiting (v : Bool) (s : State) : (s.setHalted v).waiting = s.waiting := rfl
@[simp] theorem State.setHalted_halted (v : Bool) (s : State) : (s.setHalted v).halted = v := rfl
@[simp] theorem State.setHalted_pendingCycles (v : Bool) (s : State) : (s.setHalted v).pendingCycles = s.pendingCycles := rfl
@[simp] theorem State.setHalted_lastIrqVia (v : Bool) (s : State) : (s.setHalted v).lastIrqVia = s.lastIrqVia := rfl
@[simp] theorem State.setHalted_lastIrqAcia (v : Bool) (s : State) : (s.setHalted v).lastIrqAcia = s.lastIrqAcia := rfl
@[simp] theorem State.setHalted_mem (v : Bool) (s : State) : (s.setHalted v).mem = s.mem := rfl
@[simp] theorem State.setHalted_via (v : Bool) (s : State) : (s.setHalted v).via = s.via := rfl
@[simp] theorem State.setHalted_acia (v : Bool) (s : State) : (s.setHalted v).acia = s.acia := rfl
@[simp] theorem State.setHalted_cycleCount (v : Bool) (s : State) : (s.setHalted v).cycleCount = s.cycleCount := rfl
@[simp] theorem State.setHalted_hostInput (v : Bool) (s : State) : (s.setHalted v).hostInput = s.hostInput := rfl

@[simp] theorem State.setPendingCycles_config (v : Nat) (s : State) : (s.setPendingCycles v).config = s.config := rfl
@[simp] theorem State.setPendingCycles_a (v : Nat) (s : State) : (s.setPendingCycles v).a = s.a := rfl
@[simp] theorem State.setPendingCycles_x (v : Nat) (s : State) : (s.setPendingCycles v).x = s.x := rfl
@[simp] theorem State.setPendingCycles_y (v : Nat) (s : State) : (s.setPendingCycles v).y = s.y := rfl
@[simp] theorem State.setPendingCycles_sp (v : Nat) (s : State) : (s.setPendingCycles v).sp = s.sp := rfl
@[simp] theorem State.setPendingCycles_pc (v : Nat) (s : State) : (s.setPendingCycles v).pc = s.pc := rfl
@[simp] theorem State.setPendingCycles_p (v : Nat) (s : State) : (s.setPendingCycles v).p = s.p := rfl
@[simp] theorem State.setPendingCycles_resetPending (v : Nat) (s : State) : (s.setPendingCycles v).resetPending = s.resetPending := rfl
@[simp] theorem State.setPendingCycles_nmiPending (v : Nat) (s : State) : (s.setPendingCycles v).nmiPending = s.nmiPending := rfl
@[simp] theorem State.setPendingCycles_nmiLastHigh (v : Nat) (s : State) : (s.setPendingCycles v).nmiLastHigh = s.nmiLastHigh := rfl
@[simp] theorem State.setPendingCycles_irqPending (v : Nat) (s : State) : (s.setPendingCycles v).irqPending = s.irqPending := rfl
@[simp] theorem State.setPendingCycles_waiting (v : Nat) (s : State) : (s.setPendingCycles v).waiting = s.waiting := rfl
@[simp] theorem State.setPendingCycles_halted (v : Nat) (s : State) : (s.setPendingCycles v).halted = s.halted := rfl
@[simp] theorem State.setPendingCycles_pendingCycles (v : Nat) (s : State) : (s.setPendingCycles v).pendingCycles = v := rfl
@[simp] theorem State.setPendingCycles_lastIrqVia (v : Nat) (s : State) : (s.setPendingCycles v).lastIrqVia = s.lastIrqVia := rfl
@[simp] theorem State.setPendingCycles_lastIrqAcia (v : Nat) (s : State) : (s.setPendingCycles v).lastIrqAcia = s.lastIrqAcia := rfl
@[simp] theorem State.setPendingCycles_mem (v : Nat) (s : State) : (s.setPendingCycles v).mem = s.mem := rfl
@[simp] theorem State.setPendingCycles_via (v : Nat) (s : State) : (s.setPendingCycles v).via = s.via := rfl
@[simp] theorem State.setPendingCycles_acia (v : Nat) (s : State) : (s.setPendingCycles v).acia = s.acia := rfl
@[simp] theorem State.setPendingCycles_cycleCount (v : Nat) (s : State) : (s.setPendingCycles v).cycleCount = s.cycleCount := rfl
@[simp] theorem State.setPendingCycles_hostInput (v : Nat) (s : State) : (s.setPendingCycles v).hostInput = s.hostInput := rfl

@[simp] theorem State.setLastIrqVia_config (v : Bool) (s : State) : (s.setLastIrqVia v).config = s.config := rfl
@[simp] theorem State.setLastIrqVia_a (v : Bool) (s : State) : (s.setLastIrqVia v).a = s.a := rfl
@[simp] theorem State.setLastIrqVia_x (v : Bool) (s : State) : (s.setLastIrqVia v).x = s.x := rfl
@[simp] theorem State.setLastIrqVia_y (v : Bool) (s : State) : (s.setLastIrqVia v).y = s.y := rfl
@[simp] theorem State.setLastIrqVia_sp (v : Bool) (s : State) : (s.setLastIrqVia v).sp = s.sp := rfl
@[simp] theorem State.setLastIrqVia_pc (v : Bool) (s : State) : (s.setLastIrqVia v).pc = s.pc := rfl
@[simp] theorem State.setLastIrqVia_p (v : Bool) (s : State) : (s.setLastIrqVia v).p = s.p := rfl
@[simp] theorem State.setLastIrqVia_resetPending (v : Bool) (s : State) : (s.setLastIrqVia v).resetPending = s.resetPending := rfl
@[simp] theorem State.setLastIrqVia_nmiPending (v : Bool) (s : State) : (s.setLastIrqVia v).nmiPending = s.nmiPending := rfl
@[simp] theorem State.setLastIrqVia_nmiLastHigh (v : Bool) (s : State) : (s.setLastIrqVia v).nmiLastHigh = s.nmiLastHigh := rfl
@[simp] theorem State.setLastIrqVia_irqPending (v : Bool) (s : State) : (s.setLastIrqVia v).irqPending = s.irqPending := rfl
@[simp] theorem State.setLastIrqVia_waiting (v : Bool) (s : State) : (s.setLastIrqVia v).waiting = s.waiting := rfl
@[simp] theorem State.setLastIrqVia_halted (v : Bool) (s : State) : (s.setLastIrqVia v).halted = s.halted := rfl
@[simp] theorem State.setLastIrqVia_pendingCycles (v : Bool) (s : State) : (s.setLastIrqVia v).pendingCycles = s.pendingCycles := rfl
@[simp] theorem State.setLastIrqVia_lastIrqVia (v : Bool) (s : State) : (s.setLastIrqVia v).lastIrqVia = v := rfl
@[simp] theorem State.setLastIrqVia_lastIrqAcia (v : Bool) (s : State) : (s.setLastIrqVia v).lastIrqAcia = s.lastIrqAcia := rfl
@[simp] theorem State.setLastIrqVia_mem (v : Bool) (s : State) : (s.setLastIrqVia v).mem = s.mem := rfl
@[simp] theorem State.setLastIrqVia_via (v : Bool) (s : State) : (s.setLastIrqVia v).via = s.via := rfl
@[simp] theorem State.setLastIrqVia_acia (v : Bool) (s : State) : (s.setLastIrqVia v).acia = s.acia := rfl
@[simp] theorem State.setLastIrqVia_cycleCount (v : Bool) (s : State) : (s.setLastIrqVia v).cycleCount = s.cycleCount := rfl
@[simp] theorem State.setLastIrqVia_hostInput (v : Bool) (s : State) : (s.setLastIrqVia v).hostInput = s.hostInput := rfl

@[simp] theorem State.setLastIrqAcia_config (v : Bool) (s : State) : (s.setLastIrqAcia v).config = s.config := rfl
@[simp] theorem State.setLastIrqAcia_a (v : Bool) (s : State) : (s.setLastIrqAcia v).a = s.a := rfl
@[simp] theorem State.setLastIrqAcia_x (v : Bool) (s : State) : (s.setLastIrqAcia v).x = s.x := rfl
@[simp] theorem State.setLastIrqAcia_y (v : Bool) (s : State) : (s.setLastIrqAcia v).y = s.y := rfl
@[simp] theorem State.setLastIrqAcia_sp (v : Bool) (s : State) : (s.setLastIrqAcia v).sp = s.sp := rfl
@[simp] theorem State.setLastIrqAcia_pc (v : Bool) (s : State) : (s.setLastIrqAcia v).pc = s.pc := rfl
@[simp] theorem State.setLastIrqAcia_p (v : Bool) (s : State) : (s.setLastIrqAcia v).p = s.p := rfl
@[simp] theorem State.setLastIrqAcia_resetPending (v : Bool) (s : State) : (s.setLastIrqAcia v).resetPending = s.resetPending := rfl
@[simp] theorem State.setLastIrqAcia_nmiPending (v : Bool) (s : State) : (s.setLastIrqAcia v).nmiPending = s.nmiPending := rfl
@[simp] theorem State.setLastIrqAcia_nmiLastHigh (v : Bool) (s : State) : (s.setLastIrqAcia v).nmiLastHigh = s.nmiLastHigh := rfl
@[simp] theorem State.setLastIrqAcia_irqPending (v : Bool) (s : State) : (s.setLastIrqAcia v).irqPending = s.irqPending := rfl
@[simp] theorem State.setLastIrqAcia_waiting (v : Bool) (s : State) : (s.setLastIrqAcia v).waiting = s.waiting := rfl
@[simp] theorem State.setLastIrqAcia_halted (v : Bool) (s : State) : (s.setLastIrqAcia v).halted = s.halted := rfl
@[simp] theorem State.setLastIrqAcia_pendingCycles (v : Bool) (s : State) : (s.setLastIrqAcia v).pendingCycles = s.pendingCycles := rfl
@[simp] theorem State.setLastIrqAcia_lastIrqVia (v : Bool) (s : State) : (s.setLastIrqAcia v).lastIrqVia = s.lastIrqVia := rfl
@[simp] theorem State.setLastIrqAcia_lastIrqAcia (v : Bool) (s : State) : (s.setLastIrqAcia v).lastIrqAcia = v := rfl
@[simp] theorem State.setLastIrqAcia_mem (v : Bool) (s : State) : (s.setLastIrqAcia v).mem = s.mem := rfl
@[simp] theorem State.setLastIrqAcia_via (v : Bool) (s : State) : (s.setLastIrqAcia v).via = s.via := rfl
@[simp] theorem State.setLastIrqAcia_acia (v : Bool) (s : State) : (s.setLastIrqAcia v).acia = s.acia := rfl
@[simp] theorem State.setLastIrqAcia_cycleCount (v : Bool) (s : State) : (s.setLastIrqAcia v).cycleCount = s.cycleCount := rfl
@[simp] theorem State.setLastIrqAcia_hostInput (v : Bool) (s : State) : (s.setLastIrqAcia v).hostInput = s.hostInput := rfl

@[simp] theorem State.setMem_config (v : Memory) (s : State) : (s.setMem v).config = s.config := rfl
@[simp] theorem State.setMem_a (v : Memory) (s : State) : (s.setMem v).a = s.a := rfl
@[simp] theorem State.setMem_x (v : Memory) (s : State) : (s.setMem v).x = s.x := rfl
@[simp] theorem State.setMem_y (v : Memory) (s : State) : (s.setMem v).y = s.y := rfl
@[simp] theorem State.setMem_sp (v : Memory) (s : State) : (s.setMem v).sp = s.sp := rfl
@[simp] theorem State.setMem_pc (v : Memory) (s : State) : (s.setMem v).pc = s.pc := rfl
@[simp] theorem State.setMem_p (v : Memory) (s : State) : (s.setMem v).p = s.p := rfl
@[simp] theorem State.setMem_resetPending (v : Memory) (s : State) : (s.setMem v).resetPending = s.resetPending := rfl
@[simp] theorem State.setMem_nmiPending (v : Memory) (s : State) : (s.setMem v).nmiPending = s.nmiPending := rfl
@[simp] theorem State.setMem_nmiLastHigh (v : Memory) (s : State) : (s.setMem v).nmiLastHigh = s.nmiLastHigh := rfl
@[simp] theorem State.setMem_irqPending (v : Memory) (s : State) : (s.setMem v).irqPending = s.irqPending := rfl
@[simp] theorem State.setMem_waiting (v : Memory) (s : State) : (s.setMem v).waiting = s.waiting := rfl
@[simp] theorem State.setMem_halted (v : Memory) (s : State) : (s.setMem v).halted = s.halted := rfl
@[simp] theorem State.setMem_pendingCycles (v : Memory) (s : State) : (s.setMem v).pendingCycles = s.pendingCycles := rfl
@[simp] theorem State.setMem_lastIrqVia (v : Memory) (s : State) : (s.setMem v).lastIrqVia = s.lastIrqVia := rfl
@[simp] theorem State.setMem_lastIrqAcia (v : Memory) (s : State) : (s.setMem v).lastIrqAcia = s.lastIrqAcia := rfl
@[simp] theorem State.setMem_mem (v : Memory) (s : State) : (s.setMem v).mem = v := rfl
@[simp] theorem State.setMem_via (v : Memory) (s : State) : (s.setMem v).via = s.via := rfl
@[simp] theorem State.setMem_acia (v : Memory) (s : State) : (s.setMem v).acia = s.acia := rfl
@[simp] theorem State.setMem_cycleCount (v : Memory) (s : State) : (s.setMem v).cycleCount = s.cycleCount := rfl
@[simp] theorem State.setMem_hostInput (v : Memory) (s : State) : (s.setMem v).hostInput = s.hostInput := rfl

@[simp] theorem State.setVia_config (v : Via) (s : State) : (s.setVia v).config = s.config := rfl
@[simp] theorem State.setVia_a (v : Via) (s : State) : (s.setVia v).a = s.a := rfl
@[simp] theorem State.setVia_x (v : Via) (s : State) : (s.setVia v).x = s.x := rfl
@[simp] theorem State.setVia_y (v : Via) (s : State) : (s.setVia v).y = s.y := rfl
@[simp] theorem State.setVia_sp (v : Via) (s : State) : (s.setVia v).sp = s.sp := rfl
@[simp] theorem State.setVia_pc (v : Via) (s : State) : (s.setVia v).pc = s.pc := rfl
@[simp] theorem State.setVia_p (v : Via) (s : State) : (s.setVia v).p = s.p := rfl
@[simp] theorem State.setVia_resetPending (v : Via) (s : State) : (s.setVia v).resetPending = s.resetPending := rfl
@[simp] theorem State.setVia_nmiPending (v : Via) (s : State) : (s.setVia v).nmiPending = s.nmiPending := rfl
@[simp] theorem State.setVia_nmiLastHigh (v : Via) (s : State) : (s.setVia v).nmiLastHigh = s.nmiLastHigh := rfl
@[simp] theorem State.setVia_irqPending (v : Via) (s : State) : (s.setVia v).irqPending = s.irqPending := rfl
@[simp] theorem State.setVia_waiting (v : Via) (s : State) : (s.setVia v).waiting = s.waiting := rfl
@[simp] theorem State.setVia_halted (v : Via) (s : State) : (s.setVia v).halted = s.halted := rfl
@[simp] theorem State.setVia_pendingCycles (v : Via) (s : State) : (s.setVia v).pendingCycles = s.pendingCycles := rfl
@[simp] theorem State.setVia_lastIrqVia (v : Via) (s : State) : (s.setVia v).lastIrqVia = s.lastIrqVia := rfl
@[simp] theorem State.setVia_lastIrqAcia (v : Via) (s : State) : (s.setVia v).lastIrqAcia = s.lastIrqAcia := rfl
@[simp] theorem State.setVia_mem (v : Via) (s : State) : (s.setVia v).mem = s.mem := rfl
@[simp] theorem State.setVia_via (v : Via) (s : State) : (s.setVia v).via = v := rfl
@[simp] theorem State.setVia_acia (v : Via) (s : State) : (s.setVia v).acia = s.acia := rfl
@[simp] theorem State.setVia_cycleCount (v : Via) (s : State) : (s.setVia v).cycleCount = s.cycleCount := rfl
@[simp] theorem State.setVia_hostInput (v : Via) (s : State) : (s.setVia v).hostInput = s.hostInput := rfl

@[simp] theorem State.setAcia_config (v : Acia) (s : State) : (s.setAcia v).config = s.config := rfl
@[simp] theorem State.setAcia_a (v : Acia) (s : State) : (s.setAcia v).a = s.a := rfl
@[simp] theorem State.setAcia_x (v : Acia) (s : State) : (s.setAcia v).x = s.x := rfl
@[simp] theorem State.setAcia_y (v : Acia) (s : State) : (s.setAcia v).y = s.y := rfl
@[simp] theorem State.setAcia_sp (v : Acia) (s : State) : (s.setAcia v).sp = s.sp := rfl
@[simp] theorem State.setAcia_pc (v : Acia) (s : State) : (s.setAcia v).pc = s.pc := rfl
@[simp] theorem State.setAcia_p (v : Acia) (s : State) : (s.setAcia v).p = s.p := rfl
@[simp] theorem State.setAcia_resetPending (v : Acia) (s : State) : (s.setAcia v).resetPending = s.resetPending := rfl
@[simp] theorem State.setAcia_nmiPending (v : Acia) (s : State) : (s.setAcia v).nmiPending = s.nmiPending := rfl
@[simp] theorem State.setAcia_nmiLastHigh (v : Acia) (s : State) : (s.setAcia v).nmiLastHigh = s.nmiLastHigh := rfl
@[simp] theorem State.setAcia_irqPending (v : Acia) (s : State) : (s.setAcia v).irqPending = s.irqPending := rfl
@[simp] theorem State.setAcia_waiting (v : Acia) (s : State) : (s.setAcia v).waiting = s.waiting := rfl
@[simp] theorem State.setAcia_halted (v : Acia) (s : State) : (s.setAcia v).halted = s.halted := rfl
@[simp] theorem State.setAcia_pendingCycles (v : Acia) (s : State) : (s.setAcia v).pendingCycles = s.pendingCycles := rfl
@[simp] theorem State.setAcia_lastIrqVia (v : Acia) (s : State) : (s.setAcia v).lastIrqVia = s.lastIrqVia := rfl
@[simp] theorem State.setAcia_lastIrqAcia (v : Acia) (s : State) : (s.setAcia v).lastIrqAcia = s.lastIrqAcia := rfl
@[simp] theorem State.setAcia_mem (v : Acia) (s : State) : (s.setAcia v).mem = s.mem := rfl
@[simp] theorem State.setAcia_via (v : Acia) (s : State) : (s.setAcia v).via = s.via := rfl
@[simp] theorem State.setAcia_acia (v : Acia) (s : State) : (s.setAcia v).acia = v := rfl
@[simp] theorem State.setAcia_cycleCount (v : Acia) (s : State) : (s.setAcia v).cycleCount = s.cycleCount := rfl
@[simp] theorem State.setAcia_hostInput (v : Acia) (s : State) : (s.setAcia v).hostInput = s.hostInput := rfl

@[simp] theorem State.setCycleCount_config (v : Nat) (s : State) : (s.setCycleCount v).config = s.config := rfl
@[simp] theorem State.setCycleCount_a (v : Nat) (s : State) : (s.setCycleCount v).a = s.a := rfl
@[simp] theorem State.setCycleCount_x (v : Nat) (s : State) : (s.setCycleCount v).x = s.x := rfl
@[simp] theorem State.setCycleCount_y (v : Nat) (s : State) : (s.setCycleCount v).y = s.y := rfl
@[simp] theorem State.setCycleCount_sp (v : Nat) (s : State) : (s.setCycleCount v).sp = s.sp := rfl
@[simp] theorem State.setCycleCount_pc (v : Nat) (s : State) : (s.setCycleCount v).pc = s.pc := rfl
@[simp] theorem State.setCycleCount_p (v : Nat) (s : State) : (s.setCycleCount v).p = s.p := rfl
@[simp] theorem State.setCycleCount_resetPending (v : Nat) (s : State) : (s.setCycleCount v).resetPending = s.resetPending := rfl
@[simp] theorem State.setCycleCount_nmiPending (v : Nat) (s : State) : (s.setCycleCount v).nmiPending = s.nmiPending := rfl
@[simp] theorem State.setCycleCount_nmiLastHigh (v : Nat) (s : State) : (s.setCycleCount v).nmiLastHigh = s.nmiLastHigh := rfl
@[simp] theorem State.setCycleCount_irqPending (v : Nat) (s : State) : (s.setCycleCount v).irqPending = s.irqPending := rfl
@[simp] theorem State.setCycleCount_waiting (v : Nat) (s : State) : (s.setCycleCount v).waiting = s.waiting := rfl
@[simp] theorem State.setCycleCount_halted (v : Nat) (s : State) : (s.setCycleCount v).halted = s.halted := rfl
@[simp] theorem State.setCycleCount_pendingCycles (v : Nat) (s : State) : (s.setCycleCount v).pendingCycles = s.pendingCycles := rfl
@[simp] theorem State.setCycleCount_lastIrqVia (v : Nat) (s : State) : (s.setCycleCount v).lastIrqVia = s.lastIrqVia := rfl
@[simp] theorem State.setCycleCount_lastIrqAcia (v : Nat) (s : State) : (s.setCycleCount v).lastIrqAcia = s.lastIrqAcia := rfl
@[simp] theorem State.setCycleCount_mem (v : Nat) (s : State) : (s.setCycleCount v).mem = s.mem := rfl
@[simp] theorem State.setCycleCount_via (v : Nat) (s : State) : (s.setCycleCount v).via = s.via := rfl
@[simp] theorem State.setCycleCount_acia (v : Nat) (s : State) : (s.setCycleCount v).acia = s.acia := rfl
@[simp] theorem State.setCycleCount_cycleCount (v : Nat) (s : State) : (s.setCycleCount v).cycleCount = v := rfl
@[simp] theorem State.setCycleCount_hostInput (v : Nat) (s : State) : (s.setCycleCount v).hostInput = s.hostInput := rfl

@[simp] theorem State.setHostInput_config (v : List (List HostAction)) (s : State) : (s.setHostInput v).config = s.config := rfl
@[simp] theorem State.setHostInput_a (v : List (List HostAction)) (s : State) : (s.setHostInput v).a = s.a := rfl
@[simp] theorem State.setHostInput_x (v : List (List HostAction)) (s : State) : (s.setHostInput v).x = s.x := rfl
@[simp] theorem State.setHostInput_y (v : List (List HostAction)) (s : State) : (s.setHostInput v).y = s.y := rfl
@[simp] theorem State.setHostInput_sp (v : List (List HostAction)) (s : State) : (s.setHostInput v).sp = s.sp := rfl
@[simp] theorem State.setHostInput_pc (v : List (List HostAction)) (s : State) : (s.setHostInput v).pc = s.pc := rfl
@[simp] theorem State.setHostInput_p (v : List (List HostAction)) (s : State) : (s.setHostInput v).p = s.p := rfl
@[simp] theorem State.setHostInput_resetPending (v : List (List HostAction)) (s : State) : (s.setHostInput v).resetPending = s.resetPending := rfl
@[simp] theorem State.setHostInput_nmiPending (v : List (List HostAction)) (s : State) : (s.setHostInput v).nmiPending = s.nmiPending := rfl
@[simp] theorem State.setHostInput_nmiLastHigh (v : List (List HostAction)) (s : State) : (s.setHostInput v).nmiLastHigh = s.nmiLastHigh := rfl
@[simp] theorem State.setHostInput_irqPending (v : List (List HostAction)) (s : State) : (s.setHostInput v).irqPending = s.irqPending := rfl
@[simp] theorem State.setHostInput_waiting (v : List (List HostAction)) (s : State) : (s.setHostInput v).waiting = s.waiting := rfl
@[simp] theorem State.setHostInput_halted (v : List (List HostAction)) (s : State) : (s.setHostInput v).halted = s.halted := rfl
@[simp] theorem State.setHostInput_pendingCycles (v : List (List HostAction)) (s : State) : (s.setHostInput v).pendingCycles = s.pendingCycles := rfl
@[simp] theorem State.setHostInput_lastIrqVia (v : List (List HostAction)) (s : State) : (s.setHostInput v).lastIrqVia = s.lastIrqVia := rfl
@[simp] theorem State.setHostInput_lastIrqAcia (v : List (List HostAction)) (s : State) : (s.setHostInput v).lastIrqAcia = s.lastIrqAcia := rfl
@[simp] theorem State.setHostInput_mem (v : List (List HostAction)) (s : State) : (s.setHostInput v).mem = s.mem := rfl
@[simp] theorem State.setHostInput_via (v : List (List HostAction)) (s : State) : (s.setHostInput v).via = s.via := rfl
@[simp] theorem State.setHostInput_acia (v : List (List HostAction)) (s : State) : (s.setHostInput v).acia = s.acia := rfl
@[simp] theorem State.setHostInput_cycleCount (v : List (List HostAction)) (s : State) : (s.setHostInput v).cycleCount = s.cycleCount := rfl
@[simp] theorem State.setHostInput_hostInput (v : List (List HostAction)) (s : State) : (s.setHostInput v).hostInput = v := rfl

/-- What `setBit` does to each bit. -/
theorem getLsbD_setBit (p : Byte) (n : Nat) (b : Bool) (j : Nat) (hn : n < 8) :
    (setBit p n b).getLsbD j = if n = j then b else p.getLsbD j := by
  unfold setBit bitMask
  by_cases h : n = j
  · subst h
    cases b <;> simp [hn]
  · by_cases hj : j < 8
    · have hne : ¬ j = n := fun e => h e.symm
      cases b <;> simp [h, hj] <;> omega
    · have hj' : 8 ≤ j := Nat.le_of_not_lt hj
      rw [BitVec.getLsbD_of_ge _ _ hj', BitVec.getLsbD_of_ge _ _ hj', if_neg h]

theorem Flag.pos_lt (f : Flag) : f.pos < 8 := by cases f <;> decide

theorem Flag.pos_inj {f g : Flag} : f.pos = g.pos ↔ f = g := by cases f <;> cases g <;> decide

/-- What a flag update does to each flag. -/
@[simp] theorem State.flag_setFlag (f g : Flag) (b : Bool) (s : State) :
    (s.setFlag f b).flag g = if f = g then b else s.flag g := by
  simp [State.flag, State.setFlag, getLsbD_setBit _ _ _ _ f.pos_lt, Flag.pos_inj]

/-- What `SetNZ` does to each flag (10_state.md R25). -/
@[simp] theorem State.flag_setNZ (v : Byte) (g : Flag) (s : State) :
    (s.setNZ v).flag g = if g = .n then v.getLsbD 7 else if g = .z then v == 0 else s.flag g := by
  cases g <;> simp [State.setNZ]

@[simp] theorem State.flag_setA (g : Flag) (v : Byte) (s : State) : (s.setA v).flag g = s.flag g := rfl
@[simp] theorem State.flag_setX (g : Flag) (v : Byte) (s : State) : (s.setX v).flag g = s.flag g := rfl
@[simp] theorem State.flag_setY (g : Flag) (v : Byte) (s : State) : (s.setY v).flag g = s.flag g := rfl
@[simp] theorem State.flag_setSp (g : Flag) (v : Byte) (s : State) : (s.setSp v).flag g = s.flag g := rfl
@[simp] theorem State.flag_setPc (g : Flag) (v : Addr) (s : State) : (s.setPc v).flag g = s.flag g := rfl
@[simp] theorem State.flag_setResetPending (g : Flag) (v : Bool) (s : State) : (s.setResetPending v).flag g = s.flag g := rfl
@[simp] theorem State.flag_setNmiPending (g : Flag) (v : Bool) (s : State) : (s.setNmiPending v).flag g = s.flag g := rfl
@[simp] theorem State.flag_setNmiLastHigh (g : Flag) (v : Bool) (s : State) : (s.setNmiLastHigh v).flag g = s.flag g := rfl
@[simp] theorem State.flag_setIrqPending (g : Flag) (v : Bool) (s : State) : (s.setIrqPending v).flag g = s.flag g := rfl
@[simp] theorem State.flag_setWaiting (g : Flag) (v : Bool) (s : State) : (s.setWaiting v).flag g = s.flag g := rfl
@[simp] theorem State.flag_setHalted (g : Flag) (v : Bool) (s : State) : (s.setHalted v).flag g = s.flag g := rfl
@[simp] theorem State.flag_setPendingCycles (g : Flag) (v : Nat) (s : State) : (s.setPendingCycles v).flag g = s.flag g := rfl
@[simp] theorem State.flag_setLastIrqVia (g : Flag) (v : Bool) (s : State) : (s.setLastIrqVia v).flag g = s.flag g := rfl
@[simp] theorem State.flag_setLastIrqAcia (g : Flag) (v : Bool) (s : State) : (s.setLastIrqAcia v).flag g = s.flag g := rfl
@[simp] theorem State.flag_setMem (g : Flag) (v : Memory) (s : State) : (s.setMem v).flag g = s.flag g := rfl
@[simp] theorem State.flag_setVia (g : Flag) (v : Via) (s : State) : (s.setVia v).flag g = s.flag g := rfl
@[simp] theorem State.flag_setAcia (g : Flag) (v : Acia) (s : State) : (s.setAcia v).flag g = s.flag g := rfl
@[simp] theorem State.flag_setCycleCount (g : Flag) (v : Nat) (s : State) : (s.setCycleCount v).flag g = s.flag g := rfl
@[simp] theorem State.flag_setHostInput (g : Flag) (v : List (List HostAction)) (s : State) : (s.setHostInput v).flag g = s.flag g := rfl

@[simp] theorem State.setFlag_config (f : Flag) (b : Bool) (s : State) : (s.setFlag f b).config = s.config := rfl
@[simp] theorem State.setNZ_config (v : Byte) (s : State) : (s.setNZ v).config = s.config := rfl
@[simp] theorem State.setFlag_a (f : Flag) (b : Bool) (s : State) : (s.setFlag f b).a = s.a := rfl
@[simp] theorem State.setNZ_a (v : Byte) (s : State) : (s.setNZ v).a = s.a := rfl
@[simp] theorem State.setFlag_x (f : Flag) (b : Bool) (s : State) : (s.setFlag f b).x = s.x := rfl
@[simp] theorem State.setNZ_x (v : Byte) (s : State) : (s.setNZ v).x = s.x := rfl
@[simp] theorem State.setFlag_y (f : Flag) (b : Bool) (s : State) : (s.setFlag f b).y = s.y := rfl
@[simp] theorem State.setNZ_y (v : Byte) (s : State) : (s.setNZ v).y = s.y := rfl
@[simp] theorem State.setFlag_sp (f : Flag) (b : Bool) (s : State) : (s.setFlag f b).sp = s.sp := rfl
@[simp] theorem State.setNZ_sp (v : Byte) (s : State) : (s.setNZ v).sp = s.sp := rfl
@[simp] theorem State.setFlag_pc (f : Flag) (b : Bool) (s : State) : (s.setFlag f b).pc = s.pc := rfl
@[simp] theorem State.setNZ_pc (v : Byte) (s : State) : (s.setNZ v).pc = s.pc := rfl
@[simp] theorem State.setFlag_resetPending (f : Flag) (b : Bool) (s : State) : (s.setFlag f b).resetPending = s.resetPending := rfl
@[simp] theorem State.setNZ_resetPending (v : Byte) (s : State) : (s.setNZ v).resetPending = s.resetPending := rfl
@[simp] theorem State.setFlag_nmiPending (f : Flag) (b : Bool) (s : State) : (s.setFlag f b).nmiPending = s.nmiPending := rfl
@[simp] theorem State.setNZ_nmiPending (v : Byte) (s : State) : (s.setNZ v).nmiPending = s.nmiPending := rfl
@[simp] theorem State.setFlag_nmiLastHigh (f : Flag) (b : Bool) (s : State) : (s.setFlag f b).nmiLastHigh = s.nmiLastHigh := rfl
@[simp] theorem State.setNZ_nmiLastHigh (v : Byte) (s : State) : (s.setNZ v).nmiLastHigh = s.nmiLastHigh := rfl
@[simp] theorem State.setFlag_irqPending (f : Flag) (b : Bool) (s : State) : (s.setFlag f b).irqPending = s.irqPending := rfl
@[simp] theorem State.setNZ_irqPending (v : Byte) (s : State) : (s.setNZ v).irqPending = s.irqPending := rfl
@[simp] theorem State.setFlag_waiting (f : Flag) (b : Bool) (s : State) : (s.setFlag f b).waiting = s.waiting := rfl
@[simp] theorem State.setNZ_waiting (v : Byte) (s : State) : (s.setNZ v).waiting = s.waiting := rfl
@[simp] theorem State.setFlag_halted (f : Flag) (b : Bool) (s : State) : (s.setFlag f b).halted = s.halted := rfl
@[simp] theorem State.setNZ_halted (v : Byte) (s : State) : (s.setNZ v).halted = s.halted := rfl
@[simp] theorem State.setFlag_pendingCycles (f : Flag) (b : Bool) (s : State) : (s.setFlag f b).pendingCycles = s.pendingCycles := rfl
@[simp] theorem State.setNZ_pendingCycles (v : Byte) (s : State) : (s.setNZ v).pendingCycles = s.pendingCycles := rfl
@[simp] theorem State.setFlag_lastIrqVia (f : Flag) (b : Bool) (s : State) : (s.setFlag f b).lastIrqVia = s.lastIrqVia := rfl
@[simp] theorem State.setNZ_lastIrqVia (v : Byte) (s : State) : (s.setNZ v).lastIrqVia = s.lastIrqVia := rfl
@[simp] theorem State.setFlag_lastIrqAcia (f : Flag) (b : Bool) (s : State) : (s.setFlag f b).lastIrqAcia = s.lastIrqAcia := rfl
@[simp] theorem State.setNZ_lastIrqAcia (v : Byte) (s : State) : (s.setNZ v).lastIrqAcia = s.lastIrqAcia := rfl
@[simp] theorem State.setFlag_mem (f : Flag) (b : Bool) (s : State) : (s.setFlag f b).mem = s.mem := rfl
@[simp] theorem State.setNZ_mem (v : Byte) (s : State) : (s.setNZ v).mem = s.mem := rfl
@[simp] theorem State.setFlag_via (f : Flag) (b : Bool) (s : State) : (s.setFlag f b).via = s.via := rfl
@[simp] theorem State.setNZ_via (v : Byte) (s : State) : (s.setNZ v).via = s.via := rfl
@[simp] theorem State.setFlag_acia (f : Flag) (b : Bool) (s : State) : (s.setFlag f b).acia = s.acia := rfl
@[simp] theorem State.setNZ_acia (v : Byte) (s : State) : (s.setNZ v).acia = s.acia := rfl
@[simp] theorem State.setFlag_cycleCount (f : Flag) (b : Bool) (s : State) : (s.setFlag f b).cycleCount = s.cycleCount := rfl
@[simp] theorem State.setNZ_cycleCount (v : Byte) (s : State) : (s.setNZ v).cycleCount = s.cycleCount := rfl
@[simp] theorem State.setFlag_hostInput (f : Flag) (b : Bool) (s : State) : (s.setFlag f b).hostInput = s.hostInput := rfl
@[simp] theorem State.setNZ_hostInput (v : Byte) (s : State) : (s.setNZ v).hostInput = s.hostInput := rfl

end Sys2Proof.Machine
end

