-- ==== Sys2Proof/Laws/Bus.lean ====
section
/-! SUPPORT. What each operation over the bus, the stack and the operands can do, said once. -/

namespace Sys2Proof.Machine

/-! ## The routing -/

/-- The routing as ranges (20_memory.md R64, R65, R85). -/
theorem deviceAt_eq (c : Config) (a : Addr) :
    deviceAt c a =
      if 0x6000 ≤ a.toNat ∧ a.toNat ≤ 0x600F then some .via
      else if c.aciaPresent = true ∧ 0x5000 ≤ a.toNat ∧ a.toNat ≤ 0x5003 then some .acia
      else none := by
  unfold deviceAt peripherals handles
  by_cases hv : 0x6000 ≤ a.toNat ∧ a.toNat ≤ 0x600F
  · cases c.aciaPresent <;> simp [hv]
  · have hv' : (decide (0x6000 ≤ a.toNat) && decide (a.toNat ≤ 0x600F)) = false := by simpa using hv
    cases hc : c.aciaPresent
    · simp [List.find?, hv, hv']
    · by_cases ha : 0x5000 ≤ a.toNat ∧ a.toNat ≤ 0x5003
      · have ha' : (decide (0x5000 ≤ a.toNat) && decide (a.toNat ≤ 0x5003)) = true := by simpa using ha
        simp only [if_true, List.find?, hv', ha', if_neg hv]
        simp [ha]
      · have ha' : (decide (0x5000 ≤ a.toNat) && decide (a.toNat ≤ 0x5003)) = false := by simpa using ha
        simp only [if_true, List.find?, hv', ha', if_neg hv]
        simp [ha]

/-- No device claims an address of RAM or ROM (20_memory.md R65). -/
theorem deviceAt_of_plain (c : Config) {a : Addr} (h : isPlain a = true) : deviceAt c a = none := by
  simp only [isPlain, isRam, isRom, Bool.or_eq_true, decide_eq_true_eq] at h
  rw [deviceAt_eq, if_neg (by omega), if_neg (by omega)]

theorem isPlain_of_ram {a : Addr} (h : isRam a = true) : isPlain a = true := by simp [isPlain, h]

theorem isPlain_of_rom {a : Addr} (h : isRom a = true) : isPlain a = true := by simp [isPlain, h]

theorem not_rom_of_ram {a : Addr} (h : isRam a = true) : isRom a = false := by
  simp only [isRam, isRom, decide_eq_true_eq, decide_eq_false_iff_not] at *
  omega

theorem mapped_of_plain (c : Config) {a : Addr} (h : isPlain a = true) : mapped c a = true := by simp [mapped, h]

/-! ## Bus reads and writes -/

/-- Reading RAM or ROM gives the stored byte and changes nothing (20_memory.md R66). -/
theorem busRead_plain {a : Addr} (h : isPlain a = true) (s : State) :
    busRead a s = .ok (s.mem.read a.toNat, s) := by
  simp [busRead, deviceAt_of_plain s.config h, h]

/-- Writing RAM stores the byte (20_memory.md R67). -/
theorem busWrite_ram {a : Addr} (h : isRam a = true) (v : Byte) (s : State) :
    busWrite a v s = .ok (s.setMem (s.mem.write a.toNat v)) := by
  simp [busWrite, deviceAt_of_plain s.config (isPlain_of_ram h), not_rom_of_ram h, h]

/-- Writing ROM does nothing (20_memory.md R67). -/
theorem busWrite_rom {a : Addr} (h : isRom a = true) (v : Byte) (s : State) : busWrite a v s = .ok s := by
  simp [busWrite, deviceAt_of_plain s.config (isPlain_of_rom h), h]

/-- A read of a mapped address succeeds (20_memory.md R66). -/
theorem busRead_mapped {a : Addr} {s : State} (h : mapped s.config a = true) : ∃ v t, busRead a s = .ok (v, t) := by
  unfold busRead
  unfold mapped at h
  split
  · exact ⟨_, _, rfl⟩
  · exact ⟨_, _, rfl⟩
  · next hd =>
    simp only [hd, Option.isSome_none, Bool.false_or] at h
    simp [h]

/-- A write of a mapped address succeeds (20_memory.md R67). -/
theorem busWrite_mapped {a : Addr} {s : State} (v : Byte) (h : mapped s.config a = true) :
    ∃ t, busWrite a v s = .ok t := by
  unfold busWrite
  unfold mapped at h
  split
  · exact ⟨_, rfl⟩
  · exact ⟨_, rfl⟩
  · next hd =>
    simp only [hd, Option.isSome_none, Bool.false_or, isPlain, Bool.or_eq_true] at h
    split
    · exact ⟨_, rfl⟩
    · next hr => simp [h.resolve_right hr]

/-- A read that fails is of an unmapped address, and says which (20_memory.md R69). -/
theorem busRead_error {a : Addr} {s : State} {f : Fault} (h : busRead a s = .error f) :
    f = .outOfRange a ∧ mapped s.config a = false := by
  cases hm : mapped s.config a with
  | true =>
    obtain ⟨v, t, ht⟩ := busRead_mapped hm
    simp [ht] at h
  | false =>
    refine ⟨?_, rfl⟩
    simp only [mapped, Bool.or_eq_false_iff, Option.isSome_eq_false_iff, Option.isNone_iff_eq_none] at hm
    simp only [busRead, hm.1, hm.2] at h
    simpa using h.symm

/-- A write that fails is of an unmapped address, and says which (20_memory.md R69). -/
theorem busWrite_error {a : Addr} {v : Byte} {s : State} {f : Fault} (h : busWrite a v s = .error f) :
    f = .outOfRange a ∧ mapped s.config a = false := by
  cases hm : mapped s.config a with
  | true =>
    obtain ⟨t, ht⟩ := busWrite_mapped v hm
    simp [ht] at h
  | false =>
    refine ⟨?_, rfl⟩
    simp only [mapped, isPlain, Bool.or_eq_false_iff, Option.isSome_eq_false_iff, Option.isNone_iff_eq_none] at hm
    simp only [busWrite, hm.1, hm.2.1, hm.2.2] at h
    simpa using h.symm

/-- Everything a bus read can do: nothing but a device's registers may change, by that device's read. -/
theorem busRead_cases {a : Addr} {s t : State} {v : Byte} (h : busRead a s = .ok (v, t)) :
    (deviceAt s.config a = some .via ∧ v = (s.via.read (.ofAddr a)).1 ∧ t = s.setVia (s.via.read (.ofAddr a)).2) ∨
    (deviceAt s.config a = some .acia ∧ v = (s.acia.read s.config (.ofAddr a)).1 ∧
      t = s.setAcia (s.acia.read s.config (.ofAddr a)).2) ∨
    (isPlain a = true ∧ v = s.mem.read a.toNat ∧ t = s) := by
  unfold busRead at h
  split at h
  · next hd =>
    simp only [Except.ok.injEq, Prod.mk.injEq] at h
    exact .inl ⟨hd, h.1.symm, h.2.symm⟩
  · next hd =>
    simp only [Except.ok.injEq, Prod.mk.injEq] at h
    exact .inr (.inl ⟨hd, h.1.symm, h.2.symm⟩)
  · split at h
    · next hp =>
      simp only [Except.ok.injEq, Prod.mk.injEq] at h
      exact .inr (.inr ⟨hp, h.1.symm, h.2.symm⟩)
    · simp at h

/-- What a bus read gives does not depend on PC, and it leaves PC alone. -/
theorem busRead_setPc (a w : Addr) (s : State) :
    busRead a (s.setPc w) = (busRead a s).map fun p => (p.1, p.2.setPc w) := by
  unfold busRead
  simp only [State.setPc]
  split
  · rfl
  · rfl
  · split <;> rfl

/-- A read of an unmapped address fails and names it (20_memory.md R69). -/
theorem busRead_unmappedAddr {a : Addr} {s : State} (h : mapped s.config a = false) :
    busRead a s = .error (.outOfRange a) := by
  simp only [mapped, Bool.or_eq_false_iff, Option.isSome_eq_false_iff, Option.isNone_iff_eq_none] at h
  simp [busRead, h.1, h.2]

/-- A bus read leaves PC and the parameters alone. -/
theorem busRead_keeps {a : Addr} {s t : State} {v : Byte} (h : busRead a s = .ok (v, t)) :
    t.pc = s.pc ∧ t.config = s.config := by
  rcases busRead_cases h with ⟨-, -, rfl⟩ | ⟨-, -, rfl⟩ | ⟨-, -, rfl⟩ <;> exact ⟨rfl, rfl⟩

/-- Everything a bus write can do. -/
theorem busWrite_cases {a : Addr} {s t : State} {v : Byte} (h : busWrite a v s = .ok t) :
    (deviceAt s.config a = some .via ∧ t = s.setVia (s.via.write (.ofAddr a) v)) ∨
    (deviceAt s.config a = some .acia ∧ t = s.setAcia (s.acia.write s.config (.ofAddr a) v)) ∨
    (isRom a = true ∧ t = s) ∨
    (isRam a = true ∧ t = s.setMem (s.mem.write a.toNat v)) := by
  unfold busWrite at h
  split at h
  · next hd =>
    simp only [Except.ok.injEq] at h
    exact .inl ⟨hd, h.symm⟩
  · next hd =>
    simp only [Except.ok.injEq] at h
    exact .inr (.inl ⟨hd, h.symm⟩)
  · split at h
    · next hr =>
      simp only [Except.ok.injEq] at h
      exact .inr (.inr (.inl ⟨hr, h.symm⟩))
    · split at h
      · next hr =>
        simp only [Except.ok.injEq] at h
        exact .inr (.inr (.inr ⟨hr, h.symm⟩))
      · simp at h

/-! ## The stack and the zero page: always RAM -/

theorem isRam_stackAddr (sp : Byte) : isRam (stackAddr sp) = true := by
  have h := sp.isLt
  simp only [isRam, stackAddr, zext16, decide_eq_true_eq, BitVec.toNat_add, BitVec.toNat_setWidth, BitVec.toNat_ofNat]
  omega

theorem isRam_zext16 (z : Byte) : isRam (zext16 z) = true := by
  have h := z.isLt
  simp only [isRam, zext16, decide_eq_true_eq, BitVec.toNat_setWidth]
  omega

/-- Two stack bytes share an address only at the same SP. -/
theorem stackAddr_inj {p q : Byte} : (stackAddr p).toNat = (stackAddr q).toNat ↔ p = q := by
  have hp := p.isLt
  have hq := q.isLt
  simp only [stackAddr, zext16, BitVec.toNat_add, BitVec.toNat_setWidth, BitVec.toNat_ofNat, ← BitVec.toNat_inj]
  omega

/-- `Push(v)` always succeeds (41_transfer_stack.md R156). -/
theorem push_eq (v : Byte) (s : State) :
    push v s = .ok ((s.setMem (s.mem.write (stackAddr s.sp).toNat v)).setSp (s.sp - 1)) := by
  rw [push, busWrite_ram (isRam_stackAddr _)]
  rfl

/-- `Pull()` always succeeds (41_transfer_stack.md R157). -/
theorem pull_eq (s : State) :
    pull s = .ok (s.mem.read (stackAddr (s.sp + 1)).toNat, s.setSp (s.sp + 1)) := by
  rw [pull, busRead_plain (isPlain_of_ram (isRam_stackAddr _))]
  rfl

/-- `PushWord(w)` always succeeds (41_transfer_stack.md R158). -/
theorem pushWord_eq (w : Addr) (s : State) :
    pushWord w s = .ok ((s.setMem ((s.mem.write (stackAddr s.sp).toNat (hiByte w)).write
      (stackAddr (s.sp - 1)).toNat (loByte w))).setSp (s.sp - 1 - 1)) := by
  rw [pushWord, push_eq]
  show push (loByte w) _ = _
  rw [push_eq]
  rfl

/-- `PullWord()` always succeeds (41_transfer_stack.md R158). -/
theorem pullWord_eq (s : State) :
    pullWord s = .ok (wordOf (s.mem.read (stackAddr (s.sp + 1 + 1)).toNat) (s.mem.read (stackAddr (s.sp + 1)).toNat),
      s.setSp (s.sp + 1 + 1)) := by
  rw [pullWord, pull_eq]
  show (do let (hi, s) ← pull _; _) = _
  rw [pull_eq]
  rfl

/-- A word whose first byte is unmapped (20_memory.md R68, R69). -/
theorem readWord_first_unmapped {a : Addr} {s : State} (h : mapped s.config a = false) :
    readWord a s = .error (.outOfRange a) := by
  rw [readWord, busRead_unmappedAddr h]
  rfl

/-- A word whose second byte alone is unmapped (20_memory.md R68, R69). -/
theorem readWord_second_unmapped {a : Addr} {s : State} (h : mapped s.config a = true)
    (h' : mapped s.config (a + 1) = false) : readWord a s = .error (.outOfRange (a + 1)) := by
  obtain ⟨v, t, ht⟩ := busRead_mapped h
  rw [readWord, ht]
  show (do let (hi, s) ← busRead (a + 1) t; _) = _
  rw [busRead_unmappedAddr (by rw [(busRead_keeps ht).2]; exact h')]
  rfl

/-- `ReadWord` of two addresses of RAM or ROM (20_memory.md R68). -/
theorem readWord_plain {a : Addr} (h : isPlain a = true) (h1 : isPlain (a + 1) = true) (s : State) :
    readWord a s = .ok (wordOf (s.mem.read (a + 1).toNat) (s.mem.read a.toNat), s) := by
  rw [readWord, busRead_plain h]
  show (do let (hi, s) ← busRead (a + 1) s; _) = _
  rw [busRead_plain h1]
  rfl

/-- The word an interrupt vector holds. -/
def State.vector (vec : Addr) (s : State) : Addr := wordOf (s.mem.read (vec + 1).toNat) (s.mem.read vec.toNat)

/-- Reading one of the three vectors always succeeds: they are ROM (20_memory.md R73). -/
theorem readWord_vector {vec : Addr} (h : vec = Config.vecNmi ∨ vec = Config.vecReset ∨ vec = Config.vecIrq) (s : State) :
    readWord vec s = .ok (s.vector vec, s) := by
  rcases h with rfl | rfl | rfl <;> exact readWord_plain (by decide) (by decide) s

/-- A zero-page pointer is always readable, without side effect (20_memory.md R74). -/
theorem zeroPagePointer_eq (z : Byte) (s : State) :
    zeroPagePointer z s =
      .ok (wordOf (s.mem.read (zext16 (z + 1)).toNat) (s.mem.read (zext16 z).toNat), s) := by
  rw [zeroPagePointer, busRead_plain (isPlain_of_ram (isRam_zext16 z))]
  show (do let (hi, s) ← busRead (zext16 (z + 1)) s; _) = _
  rw [busRead_plain (isPlain_of_ram (isRam_zext16 (z + 1)))]
  rfl

/-! ## Addressing modes -/

/-- The address of each memory mode as a function of the state (30_encoding.md R106 to R115). -/
def addressOf (m : MemMode) (s : State) : Addr :=
  let ptr := fun z : Byte => wordOf (s.mem.read (zext16 (z + 1)).toNat) (s.mem.read (zext16 z).toNat)
  match m with
  | .zp z => zext16 z
  | .zpx z => zext16 (z + s.x)
  | .zpy z => zext16 (z + s.y)
  | .abs w => w
  | .abx w => w + zext16 s.x
  | .aby w => w + zext16 s.y
  | .izx z => ptr (z + s.x)
  | .izy z => ptr z + zext16 s.y
  | .izp z => ptr z

/-- Computing an effective address always succeeds and changes nothing. -/
theorem effectiveAddress_eq (m : MemMode) (s : State) : effectiveAddress m s = .ok (addressOf m s, s) := by
  cases m
  case izy z =>
    rw [effectiveAddress, zeroPagePointer_eq]
    rfl
  all_goals first | rfl | exact zeroPagePointer_eq _ s

/-! ## The shapes of instruction -/

@[simp] theorem toOutcome_next {r : Except Fault State} {t : State} : toOutcome r = .next t ↔ r = .ok t := by
  cases r <;> simp [toOutcome]

@[simp] theorem toOutcome_fault {r : Except Fault State} {f : Fault} : toOutcome r = .fault f ↔ r = .error f := by
  cases r <;> simp [toOutcome]

@[simp] theorem toOutcome_refused {r : Except Fault State} {f : Refusal} : toOutcome r = .refused f ↔ False := by
  cases r <;> simp [toOutcome]

theorem readSource_imm (v : Byte) (s : State) : readSource (.imm v) s = .ok (v, s) := rfl

theorem readSource_mem (m : MemMode) (s : State) : readSource (.mem m) s = busRead (addressOf m s) s := by
  rw [readSource, effectiveAddress_eq]
  rfl

theorem withSource_of_ok {o : Source} {s t : State} {v : Byte} (h : readSource o s = .ok (v, t))
    (f : Byte → State → State) : withSource o f s = .next (f v t) := by
  rw [withSource, h]
  rfl

theorem withSource_of_error {o : Source} {s : State} {e : Fault} (h : readSource o s = .error e)
    (f : Byte → State → State) : withSource o f s = .fault e := by
  rw [withSource, h]
  rfl

theorem store_eq (m : MemMode) (v : Byte) (s : State) : store m v s = toOutcome (busWrite (addressOf m s) v s) := by
  rw [store, effectiveAddress_eq]
  rfl

theorem modifyMemory_of_ok {m : MemMode} {s t : State} {v : Byte} (h : busRead (addressOf m s) s = .ok (v, t))
    (f : Byte → State → Byte × State) :
    modifyMemory m f s = toOutcome (busWrite (addressOf m s) (f v t).1 (f v t).2) := by
  rw [modifyMemory, effectiveAddress_eq]
  show toOutcome (do let (v, s) ← busRead (addressOf m s) s; _) = _
  rw [h]
  rfl

theorem modifyMemory_of_error {m : MemMode} {s : State} {e : Fault} (h : busRead (addressOf m s) s = .error e)
    (f : Byte → State → Byte × State) : modifyMemory m f s = .fault e := by
  rw [modifyMemory, effectiveAddress_eq]
  show toOutcome (do let (v, s) ← busRead (addressOf m s) s; _) = _
  rw [h]
  rfl

theorem pushRegister_eq (v : Byte) (s : State) :
    pushRegister v s = .next ((s.setMem (s.mem.write (stackAddr s.sp).toNat v)).setSp (s.sp - 1)) := by
  rw [pushRegister, push_eq]
  rfl

theorem pullRegister_eq (f : Byte → State → State) (s : State) :
    pullRegister f s = .next (f (s.mem.read (stackAddr (s.sp + 1)).toNat) (s.setSp (s.sp + 1))) := by
  rw [pullRegister, pull_eq]
  rfl

theorem branchOnBit_eq (n : Nat) (taken : Bool) (z off : Byte) (s : State) :
    branchOnBit n taken z off s =
      .next (if (s.mem.read (zext16 z).toNat).getLsbD n == taken then s.setPc (s.pc + sext16 off) else s) := by
  rw [branchOnBit, busRead_plain (isPlain_of_ram (isRam_zext16 z))]
  rfl

/-! ## Exceptions, returns, resets -/

/-- Taking an exception through one of the vectors always succeeds (46_system.md R250, 60_exceptions.md R266). -/
theorem enterException_eq {vec : Addr} (h : vec = Config.vecNmi ∨ vec = Config.vecReset ∨ vec = Config.vecIrq)
    (pushed : Byte) (s : State) :
    enterException pushed vec s = .ok
      ((((s.setMem (((s.mem.write (stackAddr s.sp).toNat (hiByte s.pc)).write
        (stackAddr (s.sp - 1)).toNat (loByte s.pc)).write (stackAddr (s.sp - 1 - 1)).toNat pushed)).setSp
        (s.sp - 1 - 1 - 1)).setFlag .i true).setPc (s.vector vec)) := by
  rw [enterException, pushWord_eq]
  show (do let s ← push pushed _; _) = _
  rw [push_eq]
  show (do let (target, s) ← readWord vec _; _) = _
  rw [readWord_vector h]
  have hv : ∀ sp : Byte, (stackAddr sp).toNat ≤ 0x3FFF := fun sp => by
    simpa [isRam] using isRam_stackAddr sp
  have hr : ∀ (m : Memory) (sp v : Byte) (k : Nat), 0x8000 ≤ k →
      (m.write (stackAddr sp).toNat v).read k = m.read k := fun m sp v k hk =>
    Memory.read_write_other v (by have := hv sp; omega)
  have h1 : 0x8000 ≤ vec.toNat ∧ 0x8000 ≤ (vec + 1).toNat := by
    rcases h with rfl | rfl | rfl <;> decide
  simp only [bind, Except.bind, State.vector, State.setFlag_mem, State.setSp_mem, State.setMem_mem,
    hr _ _ _ _ h1.1, hr _ _ _ _ h1.2]
  rfl

/-- RTI always succeeds (46_system.md R251). -/
theorem returnFromException_eq (s : State) :
    returnFromException s = .ok
      (((s.setP (statusPulled (s.mem.read (stackAddr (s.sp + 1)).toNat))).setSp (s.sp + 1 + 1 + 1)).setPc
        (wordOf (s.mem.read (stackAddr (s.sp + 1 + 1 + 1)).toNat) (s.mem.read (stackAddr (s.sp + 1 + 1)).toNat))) := by
  rw [returnFromException, pull_eq]
  show (do let (target, s) ← pullWord _; _) = _
  rw [pullWord_eq]
  rfl

/-- The RESET sequence always succeeds (70_reset_and_hazards.md R342). -/
theorem resetSequence_eq (n : Nat) (s : State) :
    resetSequence n s = .ok
      { s with
        sp := s.sp - 3, pc := s.vector Config.vecReset, a := 0, x := 0, y := 0, p := 0x34
        halted := false, nmiPending := false, irqPending := false, waiting := false, resetPending := false
        pendingCycles := n } := by
  rw [resetSequence, readWord_vector (.inr (.inl rfl))]
  rfl

end Sys2Proof.Machine
end

