-- ==== Sys2Proof/Laws/Decode.lean ====
section
/-! SUPPORT. Bytes of a word, and decoding through the opcode's entry of the map. -/

namespace Sys2Proof

theorem toNat_wordOf (hi lo : Byte) : (wordOf hi lo).toNat = hi.toNat * 256 + lo.toNat := by
  have h := lo.isLt
  rw [wordOf, BitVec.toNat_append, ← Nat.shiftLeft_add_eq_or_of_lt (by simpa using h), Nat.shiftLeft_eq]

theorem toNat_hiByte (w : Addr) : (hiByte w).toNat = w.toNat / 256 := by
  have h := w.isLt
  simp only [hiByte, BitVec.extractLsb'_toNat, Nat.shiftRight_eq_div_pow]
  omega

theorem toNat_loByte (w : Addr) : (loByte w).toNat = w.toNat % 256 := by
  simp [loByte, BitVec.extractLsb'_toNat]

@[simp] theorem wordOf_bytes (w : Addr) : wordOf (hiByte w) (loByte w) = w := by
  apply BitVec.eq_of_toNat_eq
  rw [toNat_wordOf, toNat_hiByte, toNat_loByte]
  omega

@[simp] theorem hiByte_wordOf (hi lo : Byte) : hiByte (wordOf hi lo) = hi := by
  have h := lo.isLt
  apply BitVec.eq_of_toNat_eq
  rw [toNat_hiByte, toNat_wordOf]
  omega

@[simp] theorem loByte_wordOf (hi lo : Byte) : loByte (wordOf hi lo) = lo := by
  have h := lo.isLt
  apply BitVec.eq_of_toNat_eq
  rw [toNat_loByte, toNat_wordOf]
  omega

/-- An opcode without operand bytes. -/
theorem decode_f1 {op : Byte} {i : Instr} {n : Nat} (rest : List Byte) (h : opcodeEntry op = ⟨.f1 i, n⟩) :
    decode (op :: rest) = .ok (i, rest) := by
  simp [decode, h]

/-- An opcode with one operand byte. -/
theorem decode_f2 {op : Byte} {mk : Byte → Instr} {n : Nat} (b : Byte) (rest : List Byte)
    (h : opcodeEntry op = ⟨.f2 mk, n⟩) : decode (op :: b :: rest) = .ok (mk b, rest) := by
  simp [decode, h]

/-- A reserved opcode with a skipped byte. -/
theorem decode_f2Skip {op : Byte} {i : Instr} {n : Nat} (b : Byte) (rest : List Byte)
    (h : opcodeEntry op = ⟨.f2Skip i, n⟩) : decode (op :: b :: rest) = .ok (i, rest) := by
  simp [decode, h]

/-- An opcode with two operand bytes. -/
theorem decode_f3 {op : Byte} {mk : Byte → Byte → Instr} {n : Nat} (b c : Byte) (rest : List Byte)
    (h : opcodeEntry op = ⟨.f3 mk, n⟩) : decode (op :: b :: c :: rest) = .ok (mk b c, rest) := by
  simp [decode, h]

/-- An opcode with a 16-bit operand. -/
theorem decode_word {op : Byte} {mk : Addr → Instr} {n : Nat} (w : Addr) (rest : List Byte)
    (h : opcodeEntry op = ⟨.f3 fun l h => mk (wordOf h l), n⟩) :
    decode (op :: loByte w :: hiByte w :: rest) = .ok (mk w, rest) := by
  simp [decode, h]

/-- A well-formed reserved instruction is encoded by its own opcode byte. -/
theorem encode_nopReserved {r : Reserved} (h : (Instr.nopReserved r).wellFormed = true) :
    encode (.nopReserved r) = r.opcode :: r.bytes := by
  have h' : r.wellFormed = true := h
  simp [encode, Instr.opcode, Instr.operands, h']

/-- No opcode takes more than two operand bytes (30_encoding.md R100). -/
theorem operandBytes_le (op : Byte) : (opcodeEntry op).form.operandBytes ≤ 2 := by
  revert op
  decide +kernel

/-- Every count of the map lies in 1 to 8 (30_encoding.md R125). -/
theorem opcodeEntry_cycles (op : Byte) : 1 ≤ (opcodeEntry op).cycles ∧ (opcodeEntry op).cycles ≤ 8 := by
  revert op
  decide +kernel

/-- Whatever operand bytes it is given, the form builds an instruction of the form's length (30_encoding.md R100). -/
def OpcodeForm.HasLength (f : OpcodeForm) : Prop :=
  match f with
  | .f1 i | .f2Skip i => i.length = 1 + f.operandBytes
  | .f2 mk => ∀ b, (mk b).length = 1 + f.operandBytes
  | .f3 mk => ∀ b c, (mk b c).length = 1 + f.operandBytes

/-- So does every cell of the map. -/
theorem rows_hasLength : ∀ r ∈ OpcodeMap.rows, ∀ e ∈ r, e.form.HasLength := by
  unfold OpcodeMap.rows
  repeat' first
    | exact List.forall_mem_nil _
    | refine List.forall_mem_cons.2 ⟨?_, ?_⟩
    | exact fun _ _ => rfl
    | exact fun _ => rfl
    | rfl

/-- So does every opcode. -/
theorem opcodeEntry_hasLength (op : Byte) : (opcodeEntry op).form.HasLength := by
  have getD_of_all : ∀ {α : Type} {P : α → Prop} {l : List α} {d : α} (n : Nat), (∀ x ∈ l, P x) → P d → P (l.getD n d) := by
    intro α P l d n hl hd
    rw [List.getD_eq_getElem?_getD]
    cases h : l[n]? with
    | none => exact hd
    | some x => exact hl x (List.mem_of_getElem? h)
  exact getD_of_all _ (getD_of_all _ rows_hasLength (fun _ h => by cases h)) rfl

end Sys2Proof
end

