-- ==== Sys2Proof/Laws/Devices.lean ====
section
/-! SUPPORT. What each operation of the devices does, said once: the summary of IFR, one tick of each timer, and the facts
about the stored flags that every access and every tick keeps. -/

namespace Sys2Proof.Machine

/-! ## The VIA -/

/-- `DeriveSummary` leaves IFR bits 0 to 6 (60_exceptions.md R315). -/
theorem Via.getLsbD_deriveSummary (d : Via) {k : Nat} (hk : k < 7) :
    d.deriveSummary.ifr.getLsbD k = d.ifr.getLsbD k := by
  have h : ∀ (x : Byte) (k : Fin 7), (x &&& 0x7F).getLsbD k = x.getLsbD k ∧ (0x80#8).getLsbD k = false := by
    decide +kernel
  have hx := h d.ifr ⟨k, hk⟩
  simp only [Via.deriveSummary, BitVec.getLsbD_or, hx.1]
  split
  · simp [hx.2]
  · simp

/-- After `DeriveSummary` bit 7 says that an enabled flag is set (60_exceptions.md R315). -/
theorem Via.summary_deriveSummary (d : Via) :
    d.deriveSummary.ifr.getLsbD 7 = decide (d.ifr.setWidth 7 &&& d.ier ≠ 0) := by
  have h : ∀ x : Byte, (x &&& 0x7F).getLsbD 7 = false := by decide +kernel
  simp only [Via.deriveSummary, BitVec.getLsbD_or, h, Bool.false_or]
  split
  · next hc => exact (decide_eq_true hc).symm
  · next hc => exact (decide_eq_false hc).symm

/-- Two 7-bit masks meet exactly when some bit is in both. -/
theorem and_ne_zero_iff (x : Byte) (e : BitVec 7) :
    x.setWidth 7 &&& e ≠ 0 ↔ ∃ k < 7, x.getLsbD k = true ∧ e.getLsbD k = true := by
  have hb : ∀ k < 7, (x.setWidth 7 &&& e).getLsbD k = (x.getLsbD k && e.getLsbD k) := fun k hk => by
    rw [BitVec.getLsbD_and, BitVec.getLsbD_setWidth]
    simp [hk]
  constructor
  · intro h
    by_contra hn
    refine h (BitVec.eq_of_getLsbD_eq fun k hk => ?_)
    rw [hb k hk]
    cases hx : x.getLsbD k with
    | false => simp
    | true =>
      cases he : e.getLsbD k with
      | false => simp
      | true => exact absurd ⟨k, hk, hx, he⟩ hn
  · rintro ⟨k, hk, hx, he⟩ h
    have := hb k hk
    rw [h, hx, he] at this
    simp at this

/-- A 16-bit counter that is not 0 counts down by one. -/
theorem toNat_sub_one {x : BitVec 16} (h : x ≠ 0) : (x - 1).toNat = x.toNat - 1 := by
  have h0 : x.toNat ≠ 0 := fun e => h (BitVec.eq_of_toNat_eq (by simpa using e))
  have hx := x.isLt
  have h1 : (1 : BitVec 16).toNat = 1 := rfl
  rw [BitVec.toNat_sub, h1]
  omega

theorem eq_zero_iff_toNat (x : BitVec 16) : x = 0 ↔ x.toNat = 0 :=
  ⟨fun h => by simp [h], fun h => BitVec.eq_of_toNat_eq (by simpa using h)⟩

/-- Timer 1's part of a tick (60_exceptions.md R318): the counter, the flag, and nothing else. -/
theorem Via.tickT1_spec (d : Via) :
    d.tickT1.t1c.toNat = (if d.t1c.toNat = 1 then (if d.acr.getLsbD 6 then d.t1lH.toNat * 256 + d.t1lL.toNat else 0)
      else d.t1c.toNat - 1) ∧
    (∀ k < 7, d.tickT1.ifr.getLsbD k = (d.ifr.getLsbD k || (decide (k = 6) && decide (d.t1c.toNat = 1)))) ∧
    d.tickT1 = { d with t1c := d.tickT1.t1c, ifr := d.tickT1.ifr } := by
  have hor : ∀ (x : Byte) (k : Fin 7), (x ||| 0x40).getLsbD k = (x.getLsbD k || decide (k.val = 6)) := by decide +kernel
  unfold Via.tickT1
  split
  · next h =>
    have := (eq_zero_iff_toNat _).1 h
    simp [this]
  · next h =>
    have hp := toNat_sub_one h
    have h0 := mt (eq_zero_iff_toNat _).2 h
    split
    · next h1 =>
      have h1' := (eq_zero_iff_toNat _).1 h1
      have hone : d.t1c.toNat = 1 := by omega
      refine ⟨?_, fun k hk => ?_, rfl⟩
      · simp only [hone, if_true]
        split
        · exact toNat_wordOf _ _
        · rfl
      · simpa [hone] using hor d.ifr ⟨k, hk⟩
    · next h1 =>
      have h1' := mt (eq_zero_iff_toNat _).2 h1
      have hone : d.t1c.toNat ≠ 1 := by omega
      exact ⟨by simpa [hone] using hp, fun k hk => by simp [hone], rfl⟩

/-- Timer 2's part of a tick (60_exceptions.md R318): nothing while ACR bit 5 is 1. -/
theorem Via.tickT2_spec (d : Via) :
    d.tickT2.t2c.toNat = (if d.acr.getLsbD 5 then d.t2c.toNat else d.t2c.toNat - 1) ∧
    (∀ k < 7, d.tickT2.ifr.getLsbD k =
      (d.ifr.getLsbD k || (decide (k = 5) && (decide (d.t2c.toNat = 1) && !d.acr.getLsbD 5)))) ∧
    d.tickT2 = { d with t2c := d.tickT2.t2c, ifr := d.tickT2.ifr } := by
  have hor : ∀ (x : Byte) (k : Fin 7), (x ||| 0x20).getLsbD k = (x.getLsbD k || decide (k.val = 5)) := by decide +kernel
  unfold Via.tickT2
  split
  · next h => simp [h]
  · next ha =>
    simp only [Bool.not_eq_true] at ha
    split
    · next h =>
      have := (eq_zero_iff_toNat _).1 h
      simp [this]
    · next h =>
      have hp := toNat_sub_one h
      have h0 := mt (eq_zero_iff_toNat _).2 h
      split
      · next h1 =>
        have h1' := (eq_zero_iff_toNat _).1 h1
        have hone : d.t2c.toNat = 1 := by omega
        refine ⟨by simp only [hone]; rfl, fun k hk => ?_, rfl⟩
        rw [ha, hone]
        simpa using hor d.ifr ⟨k, hk⟩
      · next h1 =>
        have h1' := mt (eq_zero_iff_toNat _).2 h1
        have hone : d.t2c.toNat ≠ 1 := by omega
        exact ⟨by simp only; exact hp, fun k hk => by simp [hone], rfl⟩

/-- The flags the model never sets: IFR bits 0 to 4 (60_exceptions.md R317). -/
def Via.LowFlagsClear (d : Via) : Prop := ∀ k < 5, d.ifr.getLsbD k = false

theorem Via.LowFlagsClear.clearIfr {d : Via} (m : Byte) (h : d.LowFlagsClear) : (d.clearIfr m).LowFlagsClear :=
  fun k hk => by simp [Via.clearIfr, h k hk]

theorem Via.LowFlagsClear.deriveSummary {d : Via} (h : d.LowFlagsClear) : d.deriveSummary.LowFlagsClear :=
  fun k hk => (d.getLsbD_deriveSummary (by omega)).trans (h k hk)

/-- No read sets one of them (60_exceptions.md R317). -/
theorem Via.LowFlagsClear.read {d : Via} (r : ViaReg) (h : d.LowFlagsClear) : (d.read r).2.LowFlagsClear := by
  cases r <;> first | exact h | exact h.clearIfr _

/-- No write sets one of them (60_exceptions.md R312: "Writing cannot set a flag"). -/
theorem Via.LowFlagsClear.write {d : Via} (r : ViaReg) (v : Byte) (h : d.LowFlagsClear) :
    (d.write r v).LowFlagsClear := by
  cases r
  case orb => exact h.clearIfr 0x18
  case ora => exact h.clearIfr 0x03
  case t1cH => exact h.clearIfr 0x40
  case t1lH => exact h.clearIfr 0x40
  case t2cH => exact h.clearIfr 0x20
  case ifr => exact (h.clearIfr (v &&& 0x7F)).deriveSummary
  case ier => exact Via.LowFlagsClear.deriveSummary (d := { d with ier := _ }) h
  all_goals exact h

/-- No tick sets one of them (60_exceptions.md R317, R318). -/
theorem Via.LowFlagsClear.tick {d : Via} (h : d.LowFlagsClear) : d.tick.LowFlagsClear := by
  have key : d.tickT1.tickT2.LowFlagsClear := fun k hk => by
    rw [(Via.tickT2_spec _).2.1 k (by omega), (Via.tickT1_spec _).2.1 k (by omega), h k hk]
    simp [show ¬ k = 5 by omega, show ¬ k = 6 by omega]
  exact key.deriveSummary

/-! ## The ACIA -/

/-- What every access and every tick keeps (60_exceptions.md R327, R328, 70_reset_and_hazards.md R357): TDRE is 1, a bit
without a setter is 0, RDRF says that the FIFO is not empty, and the FIFO is within its capacity. -/
def Acia.Consistent (capacity : Nat) (d : Acia) : Prop :=
  d.status &&& 0xF3 = 0x10 ∧ d.status.getLsbD 3 = (!d.rxFifo.isEmpty) ∧ d.rxFifo.length ≤ capacity

theorem Acia.Consistent.read {d : Acia} {n : Nat} (c : Config) (r : AciaReg) (h : d.Consistent n) :
    (d.read c r).2.Consistent n := by
  cases r
  case data =>
    show d.readData.2.Consistent n
    unfold Acia.readData
    split
    · exact h
    · next b rest hf =>
      obtain ⟨h1, h2, h3⟩ := h
      rw [hf] at h2 h3
      have hc : ∀ x : Byte, x &&& 0xF3 = 0x10 → (x &&& ~~~0x08#8) &&& 0xF3 = 0x10 := by decide +kernel
      refine ⟨?_, ?_, ?_⟩
      · dsimp only
        split
        · exact hc _ h1
        · exact h1
      · dsimp only
        split
        · next he => simp [he]
        · next he => simpa [he] using h2
      · simp only [List.length_cons] at h3
        dsimp only
        omega
  all_goals
    unfold Acia.read
    dsimp only
    split <;> exact h

theorem Acia.Consistent.write {d : Acia} {n : Nat} (c : Config) (r : AciaReg) (v : Byte) (h : d.Consistent n) :
    (d.write c r v).Consistent n := by
  cases r
  case data =>
    have hs : ∀ x : Byte, x &&& 0xF3 = 0x10 → x ||| 0x10 = x := by decide +kernel
    obtain ⟨h1, h2, h3⟩ := h
    exact ⟨by simpa only [Acia.write, hs _ h1] using h1, by simpa only [Acia.write, hs _ h1] using h2, h3⟩
  case status =>
    have hp : (0x10#8) &&& 0xF3 = 0x10 ∧ (0x10#8).getLsbD 3 = !([] : List Byte).isEmpty := by decide
    exact ⟨hp.1, hp.2, Nat.zero_le _⟩
  all_goals exact h

theorem Acia.Consistent.tick {d : Acia} {n : Nat} (h : d.Consistent n) : (d.tick n).Consistent n := by
  have h4 : ∀ x : Byte, x &&& 0xF3 = 0x10 → (x ||| 0x04) &&& 0xF3 = 0x10 := by decide +kernel
  have h8 : ∀ x : Byte, x &&& 0xF3 = 0x10 → (x ||| 0x08) &&& 0xF3 = 0x10 := by decide +kernel
  have h43 : ∀ x : Byte, (x ||| 0x04).getLsbD 3 = x.getLsbD 3 := by decide +kernel
  have h83 : ∀ x : Byte, (x ||| 0x08).getLsbD 3 = true := by decide +kernel
  have key : ∀ (l : List Byte) (d : Acia),
      (d.status &&& 0xF3 = 0x10 ∧ (d.status.getLsbD 3 = true → d.rxFifo ≠ []) ∧ d.rxFifo.length ≤ n) →
      (let e := l.foldl (Acia.receive n) d
       e.status &&& 0xF3 = 0x10 ∧ (e.status.getLsbD 3 = true → e.rxFifo ≠ []) ∧ e.rxFifo.length ≤ n) := by
    intro l
    induction l with
    | nil => exact fun d h => h
    | cons b l ih =>
      intro d h
      refine ih _ ?_
      unfold Acia.receive
      split
      · next hl => exact ⟨h.1, fun _ => by simp, by simp; omega⟩
      · exact ⟨h4 _ h.1, by rw [h43]; exact h.2.1, h.2.2⟩
  have hf : d.status.getLsbD 3 = true → d.rxFifo ≠ [] := fun h3 e => by
    rw [h.2.1, e] at h3
    cases h3
  obtain ⟨k1, k2, k3⟩ := key d.incoming d ⟨h.1, hf, h.2.2⟩
  unfold Acia.tick
  generalize d.incoming.foldl (Acia.receive n) d = e at k1 k2 k3
  unfold Acia.setRdrf
  dsimp only
  split
  · next he =>
    refine ⟨k1, ?_, k3⟩
    dsimp only
    rw [he]
    cases hb : e.status.getLsbD 3
    · rfl
    · exact absurd (by simpa using he) (k2 hb)
  · next he => exact ⟨h8 _ k1, by dsimp only; rw [h83]; simpa using he, k3⟩

end Sys2Proof.Machine
end

