-- ==== Sys2Proof/Laws/Exec.lean ====
section
/-! SUPPORT. What any instruction can do, said once: a property closed under the register and flag updates and the bus
operations holds after every instruction (but for the latch WAI or STP sets), an instruction faults only on an unmapped
address, and none is refused. -/

namespace Sys2Proof.Machine

/-- Closed under everything an instruction does to the machine, but for the latches of WAI and STP. No instruction sets B or
U alone; PLP and RTI load the whole of P (10_state.md R26). -/
structure Closed (P : State → Prop) : Prop where
  a : ∀ v s, P s → P (s.setA v)
  x : ∀ v s, P s → P (s.setX v)
  y : ∀ v s, P s → P (s.setY v)
  sp : ∀ v s, P s → P (s.setSp v)
  pc : ∀ v s, P s → P (s.setPc v)
  flag : ∀ f b s, f ≠ .b → f ≠ .u → P s → P (s.setFlag f b)
  pulled : ∀ v s, P s → P (s.setP (statusPulled v))
  read : ∀ addr v s t, busRead addr s = .ok (v, t) → P s → P t
  write : ∀ addr v s t, busWrite addr v s = .ok t → P s → P t

namespace Closed

variable {P : State → Prop} {s t : State}

/-- What an operation that returns a state keeps, its successor keeps. -/
theorem bindState {r : Except Fault State} {k : State → Except Fault State} (hr : ∀ u, r = .ok u → P u)
    (hk : ∀ u, P u → k u = .ok t → P t) (e : (r >>= k) = .ok t) : P t := by
  cases r with
  | error f => simp [bind, Except.bind] at e
  | ok u => exact hk u (hr u rfl) e

/-- What an operation that returns a value keeps, its successor keeps. -/
theorem bindValue {α : Type} {r : Except Fault (α × State)} {k : α × State → Except Fault State}
    (hr : ∀ v u, r = .ok (v, u) → P u) (hk : ∀ v u, P u → k (v, u) = .ok t → P t) (e : (r >>= k) = .ok t) : P t := by
  cases r with
  | error f => simp [bind, Except.bind] at e
  | ok p => exact hk p.1 p.2 (hr p.1 p.2 rfl) e

variable (h : Closed P)
include h

theorem nz (v : Byte) (hs : P s) : P (s.setNZ v) :=
  h.flag _ _ _ (by decide) (by decide) (h.flag _ _ _ (by decide) (by decide) hs)

theorem push {v : Byte} (hs : P s) (e : Machine.push v s = .ok t) : P t := by
  rw [push_eq] at e
  cases e
  exact h.sp _ _ (h.write _ _ _ _ (busWrite_ram (isRam_stackAddr s.sp) v s) hs)

theorem pull {v : Byte} (hs : P s) (e : Machine.pull s = .ok (v, t)) : P t := by
  rw [pull_eq] at e
  cases e
  exact h.sp _ _ hs

theorem pushWord {w : Addr} (hs : P s) (e : Machine.pushWord w s = .ok t) : P t :=
  bindState (fun _ e => h.push hs e) (fun _ hu e => h.push hu e) e

theorem pullWord {w : Addr} (hs : P s) (e : Machine.pullWord s = .ok (w, t)) : P t := by
  rw [pullWord_eq] at e
  cases e
  exact h.sp _ _ hs

theorem readWord {a w : Addr} (hs : P s) (e : Machine.readWord a s = .ok (w, t)) : P t := by
  unfold Machine.readWord at e
  cases hl : busRead a s with
  | error f => simp [hl, bind, Except.bind] at e
  | ok p =>
    cases hh : busRead (a + 1) p.2 with
    | error f => simp only [hl, hh, bind, Except.bind, reduceCtorEq] at e
    | ok q =>
      simp only [hl, hh, bind, Except.bind, Except.ok.injEq, Prod.mk.injEq] at e
      exact e.2 ▸ h.read _ _ _ _ hh (h.read _ _ _ _ hl hs)

theorem readSource {o : Source} {v : Byte} (hs : P s) (e : Machine.readSource o s = .ok (v, t)) : P t := by
  cases o with
  | imm w =>
    cases e
    exact hs
  | mem m =>
    rw [readSource_mem] at e
    exact h.read _ _ _ _ e hs

theorem jumpTarget {j : JumpMode} {w : Addr} (hs : P s) (e : Machine.jumpTarget j s = .ok (w, t)) : P t := by
  cases j with
  | abs w =>
    cases e
    exact hs
  | ind w => exact h.readWord hs e
  | iax w => exact h.readWord hs e

theorem enterException {v : Byte} {vec : Addr} (hs : P s) (e : Machine.enterException v vec s = .ok t) : P t :=
  bindState (fun _ e => h.pushWord hs e)
    (fun _ hu e => bindState (fun _ e => h.push hu e)
      (fun _ hu e => bindValue (fun _ _ e => h.readWord (h.flag _ _ _ (by decide) (by decide) hu) e)
        (fun _ _ hu e => by cases e; exact h.pc _ _ hu) e) e) e

theorem returnFromException (hs : P s) (e : Machine.returnFromException s = .ok t) : P t :=
  bindValue (fun _ _ e => h.pull hs e)
    (fun _ _ hu e => bindValue (fun _ _ e => h.pullWord (h.pulled _ _ hu) e)
      (fun _ _ hu e => by cases e; exact h.pc _ _ hu) e) e

theorem withSource {o : Source} {f : Byte → State → State} (hf : ∀ v s, P s → P (f v s)) (hs : P s)
    (e : Machine.withSource o f s = .next t) : P t :=
  bindValue (fun _ _ e => h.readSource hs e) (fun _ _ hu e => by cases e; exact hf _ _ hu) (toOutcome_next.1 e)

theorem store {m : MemMode} {v : Byte} (hs : P s) (e : Machine.store m v s = .next t) : P t := by
  rw [store_eq, toOutcome_next] at e
  exact h.write _ _ _ _ e hs

theorem modifyMemory {m : MemMode} {f : Byte → State → Byte × State} (hf : ∀ v s, P s → P (f v s).2) (hs : P s)
    (e : Machine.modifyMemory m f s = .next t) : P t := by
  cases hr : busRead (addressOf m s) s with
  | error e' => simp [modifyMemory_of_error hr] at e
  | ok p =>
    rw [modifyMemory_of_ok hr, toOutcome_next] at e
    exact h.write _ _ _ _ e (hf _ _ (h.read _ _ _ _ hr hs))

theorem modify {o : Target} {f : Byte → State → Byte × State} (hf : ∀ v s, P s → P (f v s).2) (hs : P s)
    (e : Machine.modify o f s = .next t) : P t := by
  cases o with
  | acc =>
    cases e
    exact h.a _ _ (hf _ _ hs)
  | mem m => exact h.modifyMemory hf hs e

theorem pushRegister {v : Byte} (hs : P s) (e : Machine.pushRegister v s = .next t) : P t :=
  h.push hs (toOutcome_next.1 e)

theorem pullRegister {f : Byte → State → State} (hf : ∀ v s, P s → P (f v s)) (hs : P s)
    (e : Machine.pullRegister f s = .next t) : P t :=
  bindValue (fun _ _ e => h.pull hs e) (fun _ _ hu e => by cases e; exact hf _ _ hu) (toOutcome_next.1 e)

theorem branch {c : Bool} {off : Byte} (hs : P s) (e : Machine.branch c off s = .next t) : P t := by
  cases e
  split
  · exact h.pc _ _ hs
  · exact hs

theorem branchOnBit {n : Nat} {c : Bool} {z off : Byte} (hs : P s)
    (e : Machine.branchOnBit n c z off s = .next t) : P t := by
  rw [branchOnBit_eq] at e
  cases e
  split
  · exact h.pc _ _ hs
  · exact hs

theorem addToA (v : Byte) (s : State) (hs : P s) : P (s.addToA v) :=
  h.a _ _ (h.flag _ _ _ (by decide) (by decide) (h.nz _ (h.flag _ _ _ (by decide) (by decide) hs)))

theorem subFromA (v : Byte) (s : State) (hs : P s) : P (s.subFromA v) :=
  h.a _ _ (h.flag _ _ _ (by decide) (by decide) (h.nz _ (h.flag _ _ _ (by decide) (by decide) hs)))

theorem compare (r v : Byte) (s : State) (hs : P s) : P (s.compare r v) := by
  unfold State.compare
  exact h.nz _ (h.flag _ _ _ (by decide) (by decide) hs)

theorem testZ (v : Byte) (s : State) (hs : P s) : P (s.testZ v) := h.flag .z _ _ (by decide) (by decide) hs

theorem testNV (v : Byte) (s : State) (hs : P s) : P (s.testNV v) :=
  h.flag _ _ _ (by decide) (by decide) (h.flag _ _ _ (by decide) (by decide) hs)

theorem shiftByte (b : Bool) (r : Byte) (hs : P s) : P ((s.setFlag .c b).setNZ r) :=
  h.nz _ (h.flag _ _ _ (by decide) (by decide) hs)

theorem execBit {o : Source} (hs : P s) (e : Machine.execBit o s = .next t) : P t := by
  unfold Machine.execBit at e
  split at e
  · split at e
    · exact h.withSource h.testZ hs e
    · exact h.withSource (fun v s hs => h.testNV v _ (h.testZ v s hs)) hs e
  · exact h.withSource (fun v s hs => h.testNV v _ (h.testZ v s hs)) hs e

/-- INVERSION. After any instruction a closed property still holds, or the instruction is WAI or STP and has set its
latch. -/
theorem exec {i : Instr} (hs : P s) (e : Machine.exec i s = .next t) :
    P t ∨ (i = .wai ∧ t = s.setWaiting true) ∨ (i = .stp ∧ t = s.setHalted true) := by
  cases i
  case lda =>
    rw [Machine.exec, execLda] at e
    exact .inl (h.withSource (fun _ _ hs => h.nz _ (h.a _ _ hs)) hs e)
  case ldx =>
    rw [Machine.exec, execLdx] at e
    exact .inl (h.withSource (fun _ _ hs => h.nz _ (h.x _ _ hs)) hs e)
  case ldy =>
    rw [Machine.exec, execLdy] at e
    exact .inl (h.withSource (fun _ _ hs => h.nz _ (h.y _ _ hs)) hs e)
  case sta => exact .inl (h.store hs e)
  case stx => exact .inl (h.store hs e)
  case sty => exact .inl (h.store hs e)
  case stz => exact .inl (h.store hs e)
  case tax => exact .inl (by cases e; exact h.nz _ (h.x _ _ hs))
  case tay => exact .inl (by cases e; exact h.nz _ (h.y _ _ hs))
  case txa => exact .inl (by cases e; exact h.nz _ (h.a _ _ hs))
  case tya => exact .inl (by cases e; exact h.nz _ (h.a _ _ hs))
  case tsx => exact .inl (by cases e; exact h.nz _ (h.x _ _ hs))
  case txs => exact .inl (by cases e; exact h.sp _ _ hs)
  case pha => exact .inl (h.pushRegister hs e)
  case php => exact .inl (h.pushRegister hs e)
  case pla =>
    rw [Machine.exec, execPla] at e
    exact .inl (h.pullRegister (fun _ _ hs => h.nz _ (h.a _ _ hs)) hs e)
  case plp =>
    rw [Machine.exec, execPlp] at e
    exact .inl (h.pullRegister (fun v _ hs => h.pulled v _ hs) hs e)
  case phx => exact .inl (h.pushRegister hs e)
  case phy => exact .inl (h.pushRegister hs e)
  case plx =>
    rw [Machine.exec, execPlx] at e
    exact .inl (h.pullRegister (fun _ _ hs => h.nz _ (h.x _ _ hs)) hs e)
  case ply =>
    rw [Machine.exec, execPly] at e
    exact .inl (h.pullRegister (fun _ _ hs => h.nz _ (h.y _ _ hs)) hs e)
  case adc =>
    rw [Machine.exec, execAdc] at e
    exact .inl (h.withSource h.addToA hs e)
  case sbc =>
    rw [Machine.exec, execSbc] at e
    exact .inl (h.withSource h.subFromA hs e)
  case cmp =>
    rw [Machine.exec, execCmp] at e
    exact .inl (h.withSource (fun v s hs => h.compare _ v s hs) hs e)
  case cpx =>
    rw [Machine.exec, execCpx] at e
    exact .inl (h.withSource (fun v s hs => h.compare _ v s hs) hs e)
  case cpy =>
    rw [Machine.exec, execCpy] at e
    exact .inl (h.withSource (fun v s hs => h.compare _ v s hs) hs e)
  case and =>
    rw [Machine.exec, execAnd] at e
    exact .inl (h.withSource (fun _ _ hs => h.nz _ (h.a _ _ hs)) hs e)
  case ora =>
    rw [Machine.exec, execOra] at e
    exact .inl (h.withSource (fun _ _ hs => h.nz _ (h.a _ _ hs)) hs e)
  case eor =>
    rw [Machine.exec, execEor] at e
    exact .inl (h.withSource (fun _ _ hs => h.nz _ (h.a _ _ hs)) hs e)
  case bit => exact .inl (h.execBit hs e)
  case asl =>
    rw [Machine.exec, execAsl] at e
    exact .inl (h.modify (fun _ _ hs => h.shiftByte _ _ hs) hs e)
  case lsr =>
    rw [Machine.exec, execLsr] at e
    exact .inl (h.modify (fun _ _ hs => h.shiftByte _ _ hs) hs e)
  case rol =>
    rw [Machine.exec, execRol] at e
    exact .inl (h.modify (fun _ _ hs => h.shiftByte _ _ hs) hs e)
  case ror =>
    rw [Machine.exec, execRor] at e
    exact .inl (h.modify (fun _ _ hs => h.shiftByte _ _ hs) hs e)
  case trb =>
    rw [Machine.exec, execTrb] at e
    exact .inl (h.modifyMemory (fun v s hs => h.testZ v s hs) hs e)
  case tsb =>
    rw [Machine.exec, execTsb] at e
    exact .inl (h.modifyMemory (fun v s hs => h.testZ v s hs) hs e)
  case rmb0 =>
    rw [Machine.exec, execRmb0] at e
    exact .inl (h.modifyMemory (fun _ _ hs => hs) hs e)
  case rmb1 =>
    rw [Machine.exec, execRmb1] at e
    exact .inl (h.modifyMemory (fun _ _ hs => hs) hs e)
  case rmb2 =>
    rw [Machine.exec, execRmb2] at e
    exact .inl (h.modifyMemory (fun _ _ hs => hs) hs e)
  case rmb3 =>
    rw [Machine.exec, execRmb3] at e
    exact .inl (h.modifyMemory (fun _ _ hs => hs) hs e)
  case rmb4 =>
    rw [Machine.exec, execRmb4] at e
    exact .inl (h.modifyMemory (fun _ _ hs => hs) hs e)
  case rmb5 =>
    rw [Machine.exec, execRmb5] at e
    exact .inl (h.modifyMemory (fun _ _ hs => hs) hs e)
  case rmb6 =>
    rw [Machine.exec, execRmb6] at e
    exact .inl (h.modifyMemory (fun _ _ hs => hs) hs e)
  case rmb7 =>
    rw [Machine.exec, execRmb7] at e
    exact .inl (h.modifyMemory (fun _ _ hs => hs) hs e)
  case smb0 =>
    rw [Machine.exec, execSmb0] at e
    exact .inl (h.modifyMemory (fun _ _ hs => hs) hs e)
  case smb1 =>
    rw [Machine.exec, execSmb1] at e
    exact .inl (h.modifyMemory (fun _ _ hs => hs) hs e)
  case smb2 =>
    rw [Machine.exec, execSmb2] at e
    exact .inl (h.modifyMemory (fun _ _ hs => hs) hs e)
  case smb3 =>
    rw [Machine.exec, execSmb3] at e
    exact .inl (h.modifyMemory (fun _ _ hs => hs) hs e)
  case smb4 =>
    rw [Machine.exec, execSmb4] at e
    exact .inl (h.modifyMemory (fun _ _ hs => hs) hs e)
  case smb5 =>
    rw [Machine.exec, execSmb5] at e
    exact .inl (h.modifyMemory (fun _ _ hs => hs) hs e)
  case smb6 =>
    rw [Machine.exec, execSmb6] at e
    exact .inl (h.modifyMemory (fun _ _ hs => hs) hs e)
  case smb7 =>
    rw [Machine.exec, execSmb7] at e
    exact .inl (h.modifyMemory (fun _ _ hs => hs) hs e)
  case inc =>
    rw [Machine.exec, execInc] at e
    exact .inl (h.modify (fun _ _ hs => h.nz _ hs) hs e)
  case dec =>
    rw [Machine.exec, execDec] at e
    exact .inl (h.modify (fun _ _ hs => h.nz _ hs) hs e)
  case inx => exact .inl (by cases e; exact h.nz _ (h.x _ _ hs))
  case dex => exact .inl (by cases e; exact h.nz _ (h.x _ _ hs))
  case iny => exact .inl (by cases e; exact h.nz _ (h.y _ _ hs))
  case dey => exact .inl (by cases e; exact h.nz _ (h.y _ _ hs))
  case clc => exact .inl (by cases e; exact h.flag _ _ _ (by decide) (by decide) hs)
  case sec => exact .inl (by cases e; exact h.flag _ _ _ (by decide) (by decide) hs)
  case cli => exact .inl (by cases e; exact h.flag _ _ _ (by decide) (by decide) hs)
  case sei => exact .inl (by cases e; exact h.flag _ _ _ (by decide) (by decide) hs)
  case cld => exact .inl (by cases e; exact h.flag _ _ _ (by decide) (by decide) hs)
  case sed => exact .inl (by cases e; exact h.flag _ _ _ (by decide) (by decide) hs)
  case clv => exact .inl (by cases e; exact h.flag _ _ _ (by decide) (by decide) hs)
  case jmp => exact .inl (bindValue (fun _ _ e => h.jumpTarget hs e) (fun _ _ hu e => by cases e; exact h.pc _ _ hu)
      (toOutcome_next.1 e))
  case jsr => exact .inl (bindState (fun _ e => h.pushWord hs e) (fun _ hu e => by cases e; exact h.pc _ _ hu)
      (toOutcome_next.1 e))
  case rts => exact .inl (bindValue (fun _ _ e => h.pullWord hs e) (fun _ _ hu e => by cases e; exact h.pc _ _ hu)
      (toOutcome_next.1 e))
  case bpl => exact .inl (h.branch hs e)
  case bmi => exact .inl (h.branch hs e)
  case bvc => exact .inl (h.branch hs e)
  case bvs => exact .inl (h.branch hs e)
  case bcc => exact .inl (h.branch hs e)
  case bcs => exact .inl (h.branch hs e)
  case bne => exact .inl (h.branch hs e)
  case beq => exact .inl (h.branch hs e)
  case bra => exact .inl (h.branch hs e)
  case bbr0 => exact .inl (h.branchOnBit hs e)
  case bbr1 => exact .inl (h.branchOnBit hs e)
  case bbr2 => exact .inl (h.branchOnBit hs e)
  case bbr3 => exact .inl (h.branchOnBit hs e)
  case bbr4 => exact .inl (h.branchOnBit hs e)
  case bbr5 => exact .inl (h.branchOnBit hs e)
  case bbr6 => exact .inl (h.branchOnBit hs e)
  case bbr7 => exact .inl (h.branchOnBit hs e)
  case bbs0 => exact .inl (h.branchOnBit hs e)
  case bbs1 => exact .inl (h.branchOnBit hs e)
  case bbs2 => exact .inl (h.branchOnBit hs e)
  case bbs3 => exact .inl (h.branchOnBit hs e)
  case bbs4 => exact .inl (h.branchOnBit hs e)
  case bbs5 => exact .inl (h.branchOnBit hs e)
  case bbs6 => exact .inl (h.branchOnBit hs e)
  case bbs7 => exact .inl (h.branchOnBit hs e)
  case nop => exact .inl (by cases e; exact hs)
  case nopReserved => exact .inl (by cases e; exact hs)
  case brk => exact .inl (h.enterException (h.pc _ _ hs) (toOutcome_next.1 e))
  case rti => exact .inl (h.returnFromException hs (toOutcome_next.1 e))
  case wai => exact .inr (.inl ⟨rfl, by cases e; rfl⟩)
  case stp => exact .inr (.inr ⟨rfl, by cases e; rfl⟩)

/-- Fetching an instruction keeps a closed property. -/
theorem fetch {r : Instr × Nat} (hs : P s) (e : Machine.fetch s = .ok (r, t)) : P t := by
  unfold Machine.fetch at e
  cases hop : busRead s.pc s with
  | error f => simp [hop, bind, Except.bind] at e
  | ok p =>
    have hp := h.pc (p.2.pc + 1) _ (h.read _ _ _ _ hop hs)
    simp only [hop, bind, Except.bind] at e
    split at e
    · cases e
      exact hp
    · cases e
      exact h.pc _ _ hp
    · split at e
      · simp at e
      · next hb =>
        cases e
        exact h.pc _ _ (h.read _ _ _ _ hb hp)
    · split at e
      · simp at e
      · next hb =>
        split at e
        · simp at e
        · next hb2 =>
          cases e
          exact h.pc _ _ (h.read _ _ _ _ hb2 (h.read _ _ _ _ hb hp))

end Closed

/-! ## Faults -/

/-- A fault of the machine is an access to an unmapped address, and says which (60_exceptions.md R280). -/
abbrev Unmapped (c : Config) (f : Fault) : Prop := ∃ a, f = .outOfRange a ∧ mapped c a = false

/-- No operation of an instruction changes the parameters. -/
theorem closed_config (c : Config) : Closed fun s => s.config = c where
  a _ _ hs := hs
  x _ _ hs := hs
  y _ _ hs := hs
  sp _ _ hs := hs
  pc _ _ hs := hs
  flag _ _ _ _ _ hs := hs
  pulled _ _ hs := hs
  read _ _ _ _ e hs := by
    rcases busRead_cases e with ⟨-, -, rfl⟩ | ⟨-, -, rfl⟩ | ⟨-, -, rfl⟩ <;> exact hs
  write _ _ _ _ e hs := by
    rcases busWrite_cases e with ⟨-, rfl⟩ | ⟨-, rfl⟩ | ⟨-, rfl⟩ | ⟨-, rfl⟩ <;> exact hs

theorem busRead_unmapped {a : Addr} {s : State} {f : Fault} (h : busRead a s = .error f) : Unmapped s.config f :=
  ⟨a, busRead_error h⟩

theorem busWrite_unmapped {a : Addr} {v : Byte} {s : State} {f : Fault} (h : busWrite a v s = .error f) :
    Unmapped s.config f :=
  ⟨a, busWrite_error h⟩

theorem readWord_unmapped {a : Addr} {s : State} {f : Fault} (h : readWord a s = .error f) : Unmapped s.config f := by
  unfold readWord at h
  cases hl : busRead a s with
  | error e =>
    simp only [hl, bind, Except.bind, Except.error.injEq] at h
    exact h ▸ busRead_unmapped hl
  | ok p =>
    have hc : p.2.config = s.config := (closed_config _).read _ _ _ _ hl rfl
    cases hh : busRead (a + 1) p.2 with
    | error e =>
      simp only [hl, hh, bind, Except.bind, Except.error.injEq] at h
      exact hc ▸ h ▸ busRead_unmapped hh
    | ok q => simp only [hl, hh, bind, Except.bind, reduceCtorEq] at h

theorem withSource_fault {o : Source} {f : Byte → State → State} {s : State} {e : Fault}
    (h : withSource o f s = .fault e) : Unmapped s.config e := by
  cases hr : readSource o s with
  | ok p => simp [withSource_of_ok hr] at h
  | error e' =>
    rw [withSource_of_error hr] at h
    cases h
    cases o with
    | imm v => simp [readSource] at hr
    | mem m =>
      rw [readSource_mem] at hr
      exact busRead_unmapped hr

theorem store_fault {m : MemMode} {v : Byte} {s : State} {e : Fault} (h : store m v s = .fault e) :
    Unmapped s.config e := by
  rw [store_eq, toOutcome_fault] at h
  exact busWrite_unmapped h

/-- A modifying function that leaves the parameters alone. -/
abbrev KeepsConfig (f : Byte → State → Byte × State) : Prop := ∀ v s, (f v s).2.config = s.config

theorem modifyMemory_fault {m : MemMode} {f : Byte → State → Byte × State} (hf : KeepsConfig f) {s : State} {e : Fault}
    (h : modifyMemory m f s = .fault e) : Unmapped s.config e := by
  cases hr : busRead (addressOf m s) s with
  | error e' =>
    rw [modifyMemory_of_error hr] at h
    cases h
    exact busRead_unmapped hr
  | ok p =>
    rw [modifyMemory_of_ok hr, toOutcome_fault] at h
    have hc : p.2.config = s.config := (closed_config _).read _ _ _ _ hr rfl
    exact hc ▸ hf p.1 p.2 ▸ busWrite_unmapped h

theorem modify_fault {o : Target} {f : Byte → State → Byte × State} (hf : KeepsConfig f) {s : State} {e : Fault}
    (h : modify o f s = .fault e) : Unmapped s.config e := by
  cases o with
  | acc => simp [modify] at h
  | mem m => exact modifyMemory_fault hf h

/-- An instruction faults only on an access to an unmapped address (60_exceptions.md R283). -/
theorem exec_fault {i : Instr} {s : State} {f : Fault} (h : exec i s = .fault f) : Unmapped s.config f := by
  cases i
  case lda =>
    rw [exec, execLda] at h
    exact withSource_fault h
  case ldx =>
    rw [exec, execLdx] at h
    exact withSource_fault h
  case ldy =>
    rw [exec, execLdy] at h
    exact withSource_fault h
  case sta => exact store_fault h
  case stx => exact store_fault h
  case sty => exact store_fault h
  case stz => exact store_fault h
  case tax => cases h
  case tay => cases h
  case txa => cases h
  case tya => cases h
  case tsx => cases h
  case txs => cases h
  case pha => simp [exec, execPha, pushRegister_eq] at h
  case php => simp [exec, execPhp, pushRegister_eq] at h
  case pla => simp [exec, execPla, pullRegister_eq] at h
  case plp => simp [exec, execPlp, pullRegister_eq] at h
  case phx => simp [exec, execPhx, pushRegister_eq] at h
  case phy => simp [exec, execPhy, pushRegister_eq] at h
  case plx => simp [exec, execPlx, pullRegister_eq] at h
  case ply => simp [exec, execPly, pullRegister_eq] at h
  case adc =>
    rw [exec, execAdc] at h
    exact withSource_fault h
  case sbc =>
    rw [exec, execSbc] at h
    exact withSource_fault h
  case cmp =>
    rw [exec, execCmp] at h
    exact withSource_fault h
  case cpx =>
    rw [exec, execCpx] at h
    exact withSource_fault h
  case cpy =>
    rw [exec, execCpy] at h
    exact withSource_fault h
  case and =>
    rw [exec, execAnd] at h
    exact withSource_fault h
  case ora =>
    rw [exec, execOra] at h
    exact withSource_fault h
  case eor =>
    rw [exec, execEor] at h
    exact withSource_fault h
  case bit =>
    rw [exec] at h
    unfold execBit at h
    split at h
    · split at h <;> exact withSource_fault h
    · exact withSource_fault h
  case asl => exact modify_fault (fun _ _ => rfl) h
  case lsr => exact modify_fault (fun _ _ => rfl) h
  case rol => exact modify_fault (fun _ _ => rfl) h
  case ror => exact modify_fault (fun _ _ => rfl) h
  case trb => exact modifyMemory_fault (fun _ _ => rfl) h
  case tsb => exact modifyMemory_fault (fun _ _ => rfl) h
  case rmb0 => exact modifyMemory_fault (fun _ _ => rfl) h
  case rmb1 => exact modifyMemory_fault (fun _ _ => rfl) h
  case rmb2 => exact modifyMemory_fault (fun _ _ => rfl) h
  case rmb3 => exact modifyMemory_fault (fun _ _ => rfl) h
  case rmb4 => exact modifyMemory_fault (fun _ _ => rfl) h
  case rmb5 => exact modifyMemory_fault (fun _ _ => rfl) h
  case rmb6 => exact modifyMemory_fault (fun _ _ => rfl) h
  case rmb7 => exact modifyMemory_fault (fun _ _ => rfl) h
  case smb0 => exact modifyMemory_fault (fun _ _ => rfl) h
  case smb1 => exact modifyMemory_fault (fun _ _ => rfl) h
  case smb2 => exact modifyMemory_fault (fun _ _ => rfl) h
  case smb3 => exact modifyMemory_fault (fun _ _ => rfl) h
  case smb4 => exact modifyMemory_fault (fun _ _ => rfl) h
  case smb5 => exact modifyMemory_fault (fun _ _ => rfl) h
  case smb6 => exact modifyMemory_fault (fun _ _ => rfl) h
  case smb7 => exact modifyMemory_fault (fun _ _ => rfl) h
  case inc => exact modify_fault (fun _ _ => rfl) h
  case dec => exact modify_fault (fun _ _ => rfl) h
  case inx => cases h
  case dex => cases h
  case iny => cases h
  case dey => cases h
  case clc => cases h
  case sec => cases h
  case cli => cases h
  case sei => cases h
  case cld => cases h
  case sed => cases h
  case clv => cases h
  case jmp =>
    rename_i j
    rw [exec, execJmp, toOutcome_fault] at h
    cases ht : jumpTarget j s with
    | ok p => simp [ht, bind, Except.bind] at h
    | error e =>
      simp only [ht, bind, Except.bind, Except.error.injEq] at h
      subst h
      cases j with
      | abs w => simp [jumpTarget] at ht
      | ind w => exact readWord_unmapped ht
      | iax w => exact readWord_unmapped ht
  case jsr => simp [exec, execJsr, pushWord_eq, bind, Except.bind] at h
  case rts => simp [exec, execRts, pullWord_eq, bind, Except.bind] at h
  case bpl => cases h
  case bmi => cases h
  case bvc => cases h
  case bvs => cases h
  case bcc => cases h
  case bcs => cases h
  case bne => cases h
  case beq => cases h
  case bra => cases h
  case bbr0 => simp [exec, execBbr0, branchOnBit_eq] at h
  case bbr1 => simp [exec, execBbr1, branchOnBit_eq] at h
  case bbr2 => simp [exec, execBbr2, branchOnBit_eq] at h
  case bbr3 => simp [exec, execBbr3, branchOnBit_eq] at h
  case bbr4 => simp [exec, execBbr4, branchOnBit_eq] at h
  case bbr5 => simp [exec, execBbr5, branchOnBit_eq] at h
  case bbr6 => simp [exec, execBbr6, branchOnBit_eq] at h
  case bbr7 => simp [exec, execBbr7, branchOnBit_eq] at h
  case bbs0 => simp [exec, execBbs0, branchOnBit_eq] at h
  case bbs1 => simp [exec, execBbs1, branchOnBit_eq] at h
  case bbs2 => simp [exec, execBbs2, branchOnBit_eq] at h
  case bbs3 => simp [exec, execBbs3, branchOnBit_eq] at h
  case bbs4 => simp [exec, execBbs4, branchOnBit_eq] at h
  case bbs5 => simp [exec, execBbs5, branchOnBit_eq] at h
  case bbs6 => simp [exec, execBbs6, branchOnBit_eq] at h
  case bbs7 => simp [exec, execBbs7, branchOnBit_eq] at h
  case nop => cases h
  case nopReserved => cases h
  case brk =>
    rw [exec, execBrk, toOutcome_fault, enterException_eq (.inr (.inr rfl))] at h
    cases h
  case rti => simp [exec, execRti, returnFromException_eq] at h
  case wai => cases h
  case stp => cases h

/-- No instruction is refused. -/
theorem exec_ne_refused {i : Instr} {s : State} {r : Refusal} : exec i s ≠ .refused r := by
  intro h
  cases i
  case lda => exact toOutcome_refused.1 h
  case ldx => exact toOutcome_refused.1 h
  case ldy => exact toOutcome_refused.1 h
  case sta => exact toOutcome_refused.1 h
  case stx => exact toOutcome_refused.1 h
  case sty => exact toOutcome_refused.1 h
  case stz => exact toOutcome_refused.1 h
  case tax => cases h
  case tay => cases h
  case txa => cases h
  case tya => cases h
  case tsx => cases h
  case txs => cases h
  case pha => exact toOutcome_refused.1 h
  case php => exact toOutcome_refused.1 h
  case pla => exact toOutcome_refused.1 h
  case plp => exact toOutcome_refused.1 h
  case phx => exact toOutcome_refused.1 h
  case phy => exact toOutcome_refused.1 h
  case plx => exact toOutcome_refused.1 h
  case ply => exact toOutcome_refused.1 h
  case adc => exact toOutcome_refused.1 h
  case sbc => exact toOutcome_refused.1 h
  case cmp => exact toOutcome_refused.1 h
  case cpx => exact toOutcome_refused.1 h
  case cpy => exact toOutcome_refused.1 h
  case and => exact toOutcome_refused.1 h
  case ora => exact toOutcome_refused.1 h
  case eor => exact toOutcome_refused.1 h
  case bit =>
    rw [exec] at h
    unfold execBit at h
    split at h
    · split at h <;> exact toOutcome_refused.1 h
    · exact toOutcome_refused.1 h
  case asl =>
    rename_i o
    cases o with
    | acc => cases h
    | mem m => exact toOutcome_refused.1 h
  case lsr =>
    rename_i o
    cases o with
    | acc => cases h
    | mem m => exact toOutcome_refused.1 h
  case rol =>
    rename_i o
    cases o with
    | acc => cases h
    | mem m => exact toOutcome_refused.1 h
  case ror =>
    rename_i o
    cases o with
    | acc => cases h
    | mem m => exact toOutcome_refused.1 h
  case trb => exact toOutcome_refused.1 h
  case tsb => exact toOutcome_refused.1 h
  case rmb0 => exact toOutcome_refused.1 h
  case rmb1 => exact toOutcome_refused.1 h
  case rmb2 => exact toOutcome_refused.1 h
  case rmb3 => exact toOutcome_refused.1 h
  case rmb4 => exact toOutcome_refused.1 h
  case rmb5 => exact toOutcome_refused.1 h
  case rmb6 => exact toOutcome_refused.1 h
  case rmb7 => exact toOutcome_refused.1 h
  case smb0 => exact toOutcome_refused.1 h
  case smb1 => exact toOutcome_refused.1 h
  case smb2 => exact toOutcome_refused.1 h
  case smb3 => exact toOutcome_refused.1 h
  case smb4 => exact toOutcome_refused.1 h
  case smb5 => exact toOutcome_refused.1 h
  case smb6 => exact toOutcome_refused.1 h
  case smb7 => exact toOutcome_refused.1 h
  case inc =>
    rename_i o
    cases o with
    | acc => cases h
    | mem m => exact toOutcome_refused.1 h
  case dec =>
    rename_i o
    cases o with
    | acc => cases h
    | mem m => exact toOutcome_refused.1 h
  case inx => cases h
  case dex => cases h
  case iny => cases h
  case dey => cases h
  case clc => cases h
  case sec => cases h
  case cli => cases h
  case sei => cases h
  case cld => cases h
  case sed => cases h
  case clv => cases h
  case jmp => exact toOutcome_refused.1 h
  case jsr => exact toOutcome_refused.1 h
  case rts => exact toOutcome_refused.1 h
  case bpl => cases h
  case bmi => cases h
  case bvc => cases h
  case bvs => cases h
  case bcc => cases h
  case bcs => cases h
  case bne => cases h
  case beq => cases h
  case bra => cases h
  case bbr0 => exact toOutcome_refused.1 h
  case bbr1 => exact toOutcome_refused.1 h
  case bbr2 => exact toOutcome_refused.1 h
  case bbr3 => exact toOutcome_refused.1 h
  case bbr4 => exact toOutcome_refused.1 h
  case bbr5 => exact toOutcome_refused.1 h
  case bbr6 => exact toOutcome_refused.1 h
  case bbr7 => exact toOutcome_refused.1 h
  case bbs0 => exact toOutcome_refused.1 h
  case bbs1 => exact toOutcome_refused.1 h
  case bbs2 => exact toOutcome_refused.1 h
  case bbs3 => exact toOutcome_refused.1 h
  case bbs4 => exact toOutcome_refused.1 h
  case bbs5 => exact toOutcome_refused.1 h
  case bbs6 => exact toOutcome_refused.1 h
  case bbs7 => exact toOutcome_refused.1 h
  case nop => cases h
  case nopReserved => cases h
  case brk => exact toOutcome_refused.1 h
  case rti => exact toOutcome_refused.1 h
  case wai => cases h
  case stp => cases h

end Sys2Proof.Machine
end

