-- ==== Sys2Proof/Laws/PerInstr.lean ====
section
/-! SUPPORT. Instruction by instruction: the length of its encoding (30_encoding.md R100). -/

namespace Sys2Proof.Laws.Length

/-- A well-formed instruction is encoded in its length's bytes, at most three: "Each consumes 0, 1, or 2 bytes after the
opcode" (30_encoding.md R100). -/
def Statement (i : Instr) : Prop :=
  i.wellFormed = true → (encode i).length = i.length ∧ 1 ≤ i.length ∧ i.length ≤ 3

/-- A list of bytes and its opcode byte. -/
theorem of_operands {i : Instr} (h : i.wellFormed = true → i.opcode.isSome = true) (hl : i.operands.length ≤ 2) :
    Statement i := fun hw => by
  obtain ⟨op, hop⟩ := Option.isSome_iff_exists.1 (h hw)
  refine ⟨?_, ?_, ?_⟩
  · rw [encode, hop, Instr.length]
    simp [Nat.add_comm]
  · rw [Instr.length]
    omega
  · rw [Instr.length]
    omega

theorem memMode_bytes (m : MemMode) : m.bytes.length ≤ 2 := by cases m <;> simp [MemMode.bytes]

theorem source_bytes (o : Source) : o.bytes.length ≤ 2 := by
  cases o
  case imm => simp [Source.bytes]
  case mem m => exact memMode_bytes m

theorem target_bytes (t : Target) : t.bytes.length ≤ 2 := by
  cases t
  case acc => simp [Target.bytes]
  case mem m => exact memMode_bytes m

theorem lda (o : Source) : Statement (.lda o) :=
  of_operands (fun h => by
    rcases o with v | m
    · rfl
    · cases m <;> first | rfl | exact absurd h (by simp [Instr.wellFormed, aluModes, Source.mode, MemMode.mode]))
    (source_bytes o)

theorem ldx (o : Source) : Statement (.ldx o) :=
  of_operands (fun h => by
    rcases o with v | m
    · rfl
    · cases m <;> first | rfl | exact absurd h (by simp [Instr.wellFormed, Source.mode, MemMode.mode]))
    (source_bytes o)

theorem ldy (o : Source) : Statement (.ldy o) :=
  of_operands (fun h => by
    rcases o with v | m
    · rfl
    · cases m <;> first | rfl | exact absurd h (by simp [Instr.wellFormed, Source.mode, MemMode.mode]))
    (source_bytes o)

theorem sta (m : MemMode) : Statement (.sta m) :=
  of_operands (fun h => by cases m <;> first | rfl | exact absurd h (by simp [Instr.wellFormed, MemMode.mode]))
    (memMode_bytes m)

theorem stx (m : MemMode) : Statement (.stx m) :=
  of_operands (fun h => by cases m <;> first | rfl | exact absurd h (by simp [Instr.wellFormed, MemMode.mode]))
    (memMode_bytes m)

theorem sty (m : MemMode) : Statement (.sty m) :=
  of_operands (fun h => by cases m <;> first | rfl | exact absurd h (by simp [Instr.wellFormed, MemMode.mode]))
    (memMode_bytes m)

theorem stz (m : MemMode) : Statement (.stz m) :=
  of_operands (fun h => by cases m <;> first | rfl | exact absurd h (by simp [Instr.wellFormed, MemMode.mode]))
    (memMode_bytes m)

theorem tax : Statement (.tax) := of_operands (fun _ => rfl) (by simp [Instr.operands])

theorem tay : Statement (.tay) := of_operands (fun _ => rfl) (by simp [Instr.operands])

theorem txa : Statement (.txa) := of_operands (fun _ => rfl) (by simp [Instr.operands])

theorem tya : Statement (.tya) := of_operands (fun _ => rfl) (by simp [Instr.operands])

theorem tsx : Statement (.tsx) := of_operands (fun _ => rfl) (by simp [Instr.operands])

theorem txs : Statement (.txs) := of_operands (fun _ => rfl) (by simp [Instr.operands])

theorem pha : Statement (.pha) := of_operands (fun _ => rfl) (by simp [Instr.operands])

theorem php : Statement (.php) := of_operands (fun _ => rfl) (by simp [Instr.operands])

theorem pla : Statement (.pla) := of_operands (fun _ => rfl) (by simp [Instr.operands])

theorem plp : Statement (.plp) := of_operands (fun _ => rfl) (by simp [Instr.operands])

theorem phx : Statement (.phx) := of_operands (fun _ => rfl) (by simp [Instr.operands])

theorem phy : Statement (.phy) := of_operands (fun _ => rfl) (by simp [Instr.operands])

theorem plx : Statement (.plx) := of_operands (fun _ => rfl) (by simp [Instr.operands])

theorem ply : Statement (.ply) := of_operands (fun _ => rfl) (by simp [Instr.operands])

theorem adc (o : Source) : Statement (.adc o) :=
  of_operands (fun h => by
    rcases o with v | m
    · rfl
    · cases m <;> first | rfl | exact absurd h (by simp [Instr.wellFormed, aluModes, Source.mode, MemMode.mode]))
    (source_bytes o)

theorem sbc (o : Source) : Statement (.sbc o) :=
  of_operands (fun h => by
    rcases o with v | m
    · rfl
    · cases m <;> first | rfl | exact absurd h (by simp [Instr.wellFormed, aluModes, Source.mode, MemMode.mode]))
    (source_bytes o)

theorem cmp (o : Source) : Statement (.cmp o) :=
  of_operands (fun h => by
    rcases o with v | m
    · rfl
    · cases m <;> first | rfl | exact absurd h (by simp [Instr.wellFormed, aluModes, Source.mode, MemMode.mode]))
    (source_bytes o)

theorem cpx (o : Source) : Statement (.cpx o) :=
  of_operands (fun h => by
    rcases o with v | m
    · rfl
    · cases m <;> first | rfl | exact absurd h (by simp [Instr.wellFormed, Source.mode, MemMode.mode]))
    (source_bytes o)

theorem cpy (o : Source) : Statement (.cpy o) :=
  of_operands (fun h => by
    rcases o with v | m
    · rfl
    · cases m <;> first | rfl | exact absurd h (by simp [Instr.wellFormed, Source.mode, MemMode.mode]))
    (source_bytes o)

theorem and (o : Source) : Statement (.and o) :=
  of_operands (fun h => by
    rcases o with v | m
    · rfl
    · cases m <;> first | rfl | exact absurd h (by simp [Instr.wellFormed, aluModes, Source.mode, MemMode.mode]))
    (source_bytes o)

theorem ora (o : Source) : Statement (.ora o) :=
  of_operands (fun h => by
    rcases o with v | m
    · rfl
    · cases m <;> first | rfl | exact absurd h (by simp [Instr.wellFormed, aluModes, Source.mode, MemMode.mode]))
    (source_bytes o)

theorem eor (o : Source) : Statement (.eor o) :=
  of_operands (fun h => by
    rcases o with v | m
    · rfl
    · cases m <;> first | rfl | exact absurd h (by simp [Instr.wellFormed, aluModes, Source.mode, MemMode.mode]))
    (source_bytes o)

theorem bit (o : Source) : Statement (.bit o) :=
  of_operands (fun h => by
    rcases o with v | m
    · rfl
    · cases m <;> first | rfl | exact absurd h (by simp [Instr.wellFormed, Source.mode, MemMode.mode]))
    (source_bytes o)

theorem asl (t : Target) : Statement (.asl t) :=
  of_operands (fun h => by
    rcases t with _ | m
    · rfl
    · cases m <;> first | rfl | exact absurd h (by simp [Instr.wellFormed, modifyModes, Target.mode, MemMode.mode]))
    (target_bytes t)

theorem lsr (t : Target) : Statement (.lsr t) :=
  of_operands (fun h => by
    rcases t with _ | m
    · rfl
    · cases m <;> first | rfl | exact absurd h (by simp [Instr.wellFormed, modifyModes, Target.mode, MemMode.mode]))
    (target_bytes t)

theorem rol (t : Target) : Statement (.rol t) :=
  of_operands (fun h => by
    rcases t with _ | m
    · rfl
    · cases m <;> first | rfl | exact absurd h (by simp [Instr.wellFormed, modifyModes, Target.mode, MemMode.mode]))
    (target_bytes t)

theorem ror (t : Target) : Statement (.ror t) :=
  of_operands (fun h => by
    rcases t with _ | m
    · rfl
    · cases m <;> first | rfl | exact absurd h (by simp [Instr.wellFormed, modifyModes, Target.mode, MemMode.mode]))
    (target_bytes t)

theorem trb (m : MemMode) : Statement (.trb m) :=
  of_operands (fun h => by cases m <;> first | rfl | exact absurd h (by simp [Instr.wellFormed, MemMode.mode]))
    (memMode_bytes m)

theorem tsb (m : MemMode) : Statement (.tsb m) :=
  of_operands (fun h => by cases m <;> first | rfl | exact absurd h (by simp [Instr.wellFormed, MemMode.mode]))
    (memMode_bytes m)

theorem rmb0 (z : Byte) : Statement (.rmb0 z) := of_operands (fun _ => rfl) (by simp [Instr.operands])

theorem rmb1 (z : Byte) : Statement (.rmb1 z) := of_operands (fun _ => rfl) (by simp [Instr.operands])

theorem rmb2 (z : Byte) : Statement (.rmb2 z) := of_operands (fun _ => rfl) (by simp [Instr.operands])

theorem rmb3 (z : Byte) : Statement (.rmb3 z) := of_operands (fun _ => rfl) (by simp [Instr.operands])

theorem rmb4 (z : Byte) : Statement (.rmb4 z) := of_operands (fun _ => rfl) (by simp [Instr.operands])

theorem rmb5 (z : Byte) : Statement (.rmb5 z) := of_operands (fun _ => rfl) (by simp [Instr.operands])

theorem rmb6 (z : Byte) : Statement (.rmb6 z) := of_operands (fun _ => rfl) (by simp [Instr.operands])

theorem rmb7 (z : Byte) : Statement (.rmb7 z) := of_operands (fun _ => rfl) (by simp [Instr.operands])

theorem smb0 (z : Byte) : Statement (.smb0 z) := of_operands (fun _ => rfl) (by simp [Instr.operands])

theorem smb1 (z : Byte) : Statement (.smb1 z) := of_operands (fun _ => rfl) (by simp [Instr.operands])

theorem smb2 (z : Byte) : Statement (.smb2 z) := of_operands (fun _ => rfl) (by simp [Instr.operands])

theorem smb3 (z : Byte) : Statement (.smb3 z) := of_operands (fun _ => rfl) (by simp [Instr.operands])

theorem smb4 (z : Byte) : Statement (.smb4 z) := of_operands (fun _ => rfl) (by simp [Instr.operands])

theorem smb5 (z : Byte) : Statement (.smb5 z) := of_operands (fun _ => rfl) (by simp [Instr.operands])

theorem smb6 (z : Byte) : Statement (.smb6 z) := of_operands (fun _ => rfl) (by simp [Instr.operands])

theorem smb7 (z : Byte) : Statement (.smb7 z) := of_operands (fun _ => rfl) (by simp [Instr.operands])

theorem inc (t : Target) : Statement (.inc t) :=
  of_operands (fun h => by
    rcases t with _ | m
    · rfl
    · cases m <;> first | rfl | exact absurd h (by simp [Instr.wellFormed, modifyModes, Target.mode, MemMode.mode]))
    (target_bytes t)

theorem dec (t : Target) : Statement (.dec t) :=
  of_operands (fun h => by
    rcases t with _ | m
    · rfl
    · cases m <;> first | rfl | exact absurd h (by simp [Instr.wellFormed, modifyModes, Target.mode, MemMode.mode]))
    (target_bytes t)

theorem inx : Statement (.inx) := of_operands (fun _ => rfl) (by simp [Instr.operands])

theorem dex : Statement (.dex) := of_operands (fun _ => rfl) (by simp [Instr.operands])

theorem iny : Statement (.iny) := of_operands (fun _ => rfl) (by simp [Instr.operands])

theorem dey : Statement (.dey) := of_operands (fun _ => rfl) (by simp [Instr.operands])

theorem clc : Statement (.clc) := of_operands (fun _ => rfl) (by simp [Instr.operands])

theorem sec : Statement (.sec) := of_operands (fun _ => rfl) (by simp [Instr.operands])

theorem cli : Statement (.cli) := of_operands (fun _ => rfl) (by simp [Instr.operands])

theorem sei : Statement (.sei) := of_operands (fun _ => rfl) (by simp [Instr.operands])

theorem cld : Statement (.cld) := of_operands (fun _ => rfl) (by simp [Instr.operands])

theorem sed : Statement (.sed) := of_operands (fun _ => rfl) (by simp [Instr.operands])

theorem clv : Statement (.clv) := of_operands (fun _ => rfl) (by simp [Instr.operands])

theorem jmp (j : JumpMode) : Statement (.jmp j) := by
  cases j <;> exact of_operands (fun _ => rfl) (by simp [Instr.operands, JumpMode.bytes])

theorem jsr (w : Addr) : Statement (.jsr w) := of_operands (fun _ => rfl) (by simp [Instr.operands])

theorem rts : Statement (.rts) := of_operands (fun _ => rfl) (by simp [Instr.operands])

theorem bpl (off : Byte) : Statement (.bpl off) := of_operands (fun _ => rfl) (by simp [Instr.operands])

theorem bmi (off : Byte) : Statement (.bmi off) := of_operands (fun _ => rfl) (by simp [Instr.operands])

theorem bvc (off : Byte) : Statement (.bvc off) := of_operands (fun _ => rfl) (by simp [Instr.operands])

theorem bvs (off : Byte) : Statement (.bvs off) := of_operands (fun _ => rfl) (by simp [Instr.operands])

theorem bcc (off : Byte) : Statement (.bcc off) := of_operands (fun _ => rfl) (by simp [Instr.operands])

theorem bcs (off : Byte) : Statement (.bcs off) := of_operands (fun _ => rfl) (by simp [Instr.operands])

theorem bne (off : Byte) : Statement (.bne off) := of_operands (fun _ => rfl) (by simp [Instr.operands])

theorem beq (off : Byte) : Statement (.beq off) := of_operands (fun _ => rfl) (by simp [Instr.operands])

theorem bra (off : Byte) : Statement (.bra off) := of_operands (fun _ => rfl) (by simp [Instr.operands])

theorem bbr0 (z off : Byte) : Statement (.bbr0 z off) := of_operands (fun _ => rfl) (by simp [Instr.operands])

theorem bbr1 (z off : Byte) : Statement (.bbr1 z off) := of_operands (fun _ => rfl) (by simp [Instr.operands])

theorem bbr2 (z off : Byte) : Statement (.bbr2 z off) := of_operands (fun _ => rfl) (by simp [Instr.operands])

theorem bbr3 (z off : Byte) : Statement (.bbr3 z off) := of_operands (fun _ => rfl) (by simp [Instr.operands])

theorem bbr4 (z off : Byte) : Statement (.bbr4 z off) := of_operands (fun _ => rfl) (by simp [Instr.operands])

theorem bbr5 (z off : Byte) : Statement (.bbr5 z off) := of_operands (fun _ => rfl) (by simp [Instr.operands])

theorem bbr6 (z off : Byte) : Statement (.bbr6 z off) := of_operands (fun _ => rfl) (by simp [Instr.operands])

theorem bbr7 (z off : Byte) : Statement (.bbr7 z off) := of_operands (fun _ => rfl) (by simp [Instr.operands])

theorem bbs0 (z off : Byte) : Statement (.bbs0 z off) := of_operands (fun _ => rfl) (by simp [Instr.operands])

theorem bbs1 (z off : Byte) : Statement (.bbs1 z off) := of_operands (fun _ => rfl) (by simp [Instr.operands])

theorem bbs2 (z off : Byte) : Statement (.bbs2 z off) := of_operands (fun _ => rfl) (by simp [Instr.operands])

theorem bbs3 (z off : Byte) : Statement (.bbs3 z off) := of_operands (fun _ => rfl) (by simp [Instr.operands])

theorem bbs4 (z off : Byte) : Statement (.bbs4 z off) := of_operands (fun _ => rfl) (by simp [Instr.operands])

theorem bbs5 (z off : Byte) : Statement (.bbs5 z off) := of_operands (fun _ => rfl) (by simp [Instr.operands])

theorem bbs6 (z off : Byte) : Statement (.bbs6 z off) := of_operands (fun _ => rfl) (by simp [Instr.operands])

theorem bbs7 (z off : Byte) : Statement (.bbs7 z off) := of_operands (fun _ => rfl) (by simp [Instr.operands])

theorem nop : Statement (.nop) := of_operands (fun _ => rfl) (by simp [Instr.operands])

theorem nopReserved (r : Reserved) : Statement (.nopReserved r) := by
  refine of_operands (fun h => ?_) (by cases r <;> simp [Instr.operands, Reserved.bytes])
  simp only [Instr.wellFormed] at h
  simp [Instr.opcode, h]

theorem brk : Statement (.brk) := of_operands (fun _ => rfl) (by simp [Instr.operands])

theorem rti : Statement (.rti) := of_operands (fun _ => rfl) (by simp [Instr.operands])

theorem wai : Statement (.wai) := of_operands (fun _ => rfl) (by simp [Instr.operands])

theorem stp : Statement (.stp) := of_operands (fun _ => rfl) (by simp [Instr.operands])

end Sys2Proof.Laws.Length
end

