-- ==== Sys2Proof/Laws/Step.lean ====
section
/-! SUPPORT. What a step can do, said once: the outcome split into its parts, the bus tick as one update, the host's actions. -/

namespace Sys2Proof.Machine

/-! ## Outcomes -/

@[simp] theorem mapNext_next {f : State → State} {s : State} : mapNext f (.next s) = .next (f s) := rfl
@[simp] theorem mapNext_fault {f : State → State} {r : Fault} : mapNext f (.fault r) = .fault r := rfl
@[simp] theorem mapNext_refused {f : State → State} {r : Refusal} : mapNext f (.refused r) = .refused r := rfl

theorem mapNext_eq_next {f : State → State} {o : Host.Outcome State Fault Refusal} {t : State} :
    mapNext f o = .next t ↔ ∃ u, o = .next u ∧ t = f u := by
  cases o <;> simp [mapNext, eq_comm]

theorem mapNext_eq_fault {f : State → State} {o : Host.Outcome State Fault Refusal} {r : Fault} :
    mapNext f o = .fault r ↔ o = .fault r := by
  cases o <;> simp [mapNext]

theorem mapNext_eq_refused {f : State → State} {o : Host.Outcome State Fault Refusal} {r : Refusal} :
    mapNext f o = .refused r ↔ o = .refused r := by
  cases o <;> simp [mapNext]

theorem mapNext_mapNext (f g : State → State) (o : Host.Outcome State Fault Refusal) :
    mapNext f (mapNext g o) = mapNext (fun s => f (g s)) o := by
  cases o <;> rfl

/-! ## The bus tick -/

/-- One bus tick as a single update (60_exceptions.md R270). -/
theorem busTick_eq (s : State) :
    busTick s = { s with
      via := s.via.tick
      lastIrqVia := s.via.tick.hasIrq
      acia := if s.config.aciaPresent then s.acia.tick s.config.aciaRxCapacity else s.acia
      lastIrqAcia := if s.config.aciaPresent then (s.acia.tick s.config.aciaRxCapacity).hasIrq else s.lastIrqAcia
      irqPending := s.irqPending || (s.via.tick.hasIrq && !s.lastIrqVia) ||
        (s.config.aciaPresent && (s.acia.tick s.config.aciaRxCapacity).hasIrq && !s.lastIrqAcia) } := by
  unfold busTick peripherals
  cases s.config.aciaPresent <;>
    simp [tickDevice, State.setVia, State.setAcia, State.setIrqPending, State.setLastIrqVia, State.setLastIrqAcia]

/-! ## Inversion -/

/-- Everything a step can do: the host's due actions, the CPU step, the bus tick. -/
theorem step_next {s t : State} (h : step s = .next t) :
    ∃ u v, performDue s = .ok u ∧ cpuStep u = .next v ∧ t = (busTick v).setCycleCount (v.cycleCount + 1) := by
  unfold step at h
  split at h
  · next u hu =>
    obtain ⟨v, hv, ht⟩ := mapNext_eq_next.1 h
    exact ⟨u, v, hu, hv, ht⟩
  · cases h

/-- Everything the CPU step can do (60_exceptions.md R262). -/
theorem cpuStep_next {s t : State} (h : cpuStep s = .next t) :
    (s.halted = true ∧ s.resetPending = false ∧ t = spendCycle s) ∨
    (s.waiting = true ∧ s.anyPending = false ∧ (s.halted = true → s.resetPending = true) ∧ t = s) ∨
    (0 < s.pendingCycles ∧ (s.halted = true → s.resetPending = true) ∧ (s.waiting = true → s.anyPending = true) ∧
      t = spendCycle (s.setWaiting false)) ∨
    (s.pendingCycles = 0 ∧ (s.halted = true → s.resetPending = true) ∧ (s.waiting = true → s.anyPending = true) ∧
      ∃ u, serviceBoundary (s.setWaiting false) = .next u ∧ t = spendCycle u) := by
  unfold cpuStep at h
  split at h
  · next hc =>
    simp only [Bool.and_eq_true, Bool.not_eq_true'] at hc
    cases h
    exact .inl ⟨hc.1, hc.2, rfl⟩
  · next hc =>
    have hc' : s.halted = true → s.resetPending = true := by
      intro hh
      cases hr : s.resetPending <;> simp [hh, hr] at hc ⊢
    split at h
    · next hw =>
      simp only [Bool.and_eq_true, Bool.not_eq_true'] at hw
      cases h
      exact .inr (.inl ⟨hw.1, hw.2, hc', rfl⟩)
    · next hw =>
      have hw' : s.waiting = true → s.anyPending = true := by
        intro hh
        cases hr : s.anyPending <;> simp [hh, hr] at hw ⊢
      split at h
      · next hp =>
        cases h
        exact .inr (.inr (.inl ⟨hp, hc', hw', rfl⟩))
      · next hp =>
        exact .inr (.inr (.inr ⟨by omega, hc', hw', mapNext_eq_next.1 h⟩))

/-- What executing an instruction can do. -/
theorem executeInstruction_next {s t : State} (h : executeInstruction s = .next t) :
    ∃ i n u v, fetch s = .ok ((i, n), u) ∧ exec i u = .next v ∧ t = v.setPendingCycles n := by
  unfold executeInstruction at h
  split at h
  · next i n u hf =>
    obtain ⟨v, hv, ht⟩ := mapNext_eq_next.1 h
    exact ⟨i, n, u, v, hf, hv, ht⟩
  · cases h

/-- Every declared count is 1 to 8 (00_scope.md R2). -/
theorem cyclesOf_bounds (c : Config) (op : Byte) : 1 ≤ cyclesOf c op ∧ cyclesOf c op ≤ 8 := by
  unfold cyclesOf
  split
  · next n _ =>
    have := n.isLt
    omega
  · exact opcodeEntry_cycles op

/-- Under the default parameters the count is the map's (30_encoding.md R125). -/
theorem cyclesOf_default (op : Byte) : cyclesOf defaultConfig op = (opcodeEntry op).cycles := by
  by_cases h : op = 0x00 <;> simp [cyclesOf, defaultConfig, h]

/-- A fetched instruction's count is a declared one. -/
theorem fetch_cycles {s t : State} {i : Instr} {n : Nat} (h : fetch s = .ok ((i, n), t)) : 1 ≤ n ∧ n ≤ 8 := by
  unfold fetch at h
  cases hop : busRead s.pc s with
  | error f => simp [hop, bind, Except.bind] at h
  | ok p =>
    simp only [hop, bind, Except.bind] at h
    split at h
    · cases h; exact cyclesOf_bounds _ _
    · cases h; exact cyclesOf_bounds _ _
    · split at h
      · cases h
      · cases h; exact cyclesOf_bounds _ _
    · split at h
      · cases h
      · split at h
        · cases h
        · cases h; exact cyclesOf_bounds _ _

/-- A fetch that fails was at an unmapped address (20_memory.md R77). -/
theorem fetch_error {s : State} {f : Fault} (h : fetch s = .error f) : Unmapped s.config f := by
  unfold fetch at h
  cases hop : busRead s.pc s with
  | error f' =>
    simp only [hop, bind, Except.bind, Except.error.injEq] at h
    exact h ▸ busRead_unmapped hop
  | ok p =>
    have hc : p.2.config = s.config := (closed_config _).read _ _ _ _ hop rfl
    simp only [hop, bind, Except.bind] at h
    split at h
    · cases h
    · cases h
    · split at h
      · next hb =>
        cases h
        exact hc ▸ (busRead_unmapped hb : Unmapped (p.2.setPc _).config _)
      · cases h
    · split at h
      · next hb =>
        cases h
        exact hc ▸ (busRead_unmapped hb : Unmapped (p.2.setPc _).config _)
      · next q hb =>
        have hc2 : q.2.config = p.2.config := (closed_config _).read _ _ _ _ hb rfl
        split at h
        · next hb2 =>
          cases h
          exact hc ▸ hc2 ▸ busRead_unmapped hb2
        · cases h

/-! ## Fetching -/

/-- Reading one byte. -/
theorem readBytes_one (a : Addr) (s : State) : readBytes 1 a s = (busRead a s).map fun p => ([p.1], p.2) := by
  unfold readBytes
  cases busRead a s <;> rfl

/-- As many bytes as asked for. -/
theorem readBytes_length {n : Nat} : ∀ {a : Addr} {bytes : List Byte} {s u : State},
    readBytes n a s = .ok (bytes, u) → bytes.length = n := by
  induction n with
  | zero =>
    rintro a bytes s u h
    cases h
    rfl
  | succ n ih =>
    intro a bytes s u h
    unfold readBytes at h
    cases h1 : busRead a s with
    | error f => simp only [h1, bind, Except.bind, reduceCtorEq] at h
    | ok p =>
      cases h2 : readBytes n (a + 1) p.2 with
      | error f => simp only [h1, bind, Except.bind, h2, reduceCtorEq] at h
      | ok q =>
        simp only [h1, bind, Except.bind, h2, Except.ok.injEq, Prod.mk.injEq] at h
        rw [← h.1, List.length_cons, ih h2]

/-- The fetch as reads at increasing addresses, with PC set once at its end (30_encoding.md R102, R127). -/
theorem fetch_eq (s : State) :
    fetch s = (do
      let (op, u) ← busRead s.pc s
      let (operands, u) ← readBytes (operandsRead op) (s.pc + 1) u
      let done := u.setPc (s.pc + BitVec.ofNat 16 (1 + (opcodeEntry op).form.operandBytes))
      match (opcodeEntry op).form, operands with
      | .f1 i, _ | .f2Skip i, _ => .ok ((i, cyclesOf s.config op), done)
      | .f2 mk, [b] => .ok ((mk b, cyclesOf s.config op), done)
      | .f3 mk, [b, c] => .ok ((mk b c, cyclesOf s.config op), done)
      | _, _ => .error (.outOfRange s.pc)) := by
  unfold fetch
  cases h1 : busRead s.pc s with
  | error f => rfl
  | ok p =>
    obtain ⟨op, u⟩ := p
    obtain ⟨hp, hc⟩ := busRead_keeps h1
    simp only [bind, Except.bind, operandsRead]
    cases hf : (opcodeEntry op).form with
    | f1 i => simp [readBytes, hp, hc, OpcodeForm.operandBytes]
    | f2Skip i => simp [readBytes, hp, hc, OpcodeForm.operandBytes, State.setPc, BitVec.add_assoc]
    | f2 mk =>
      simp only [hp, hc, State.setPc_pc, State.setPc_config, busRead_setPc, readBytes_one]
      cases h2 : busRead (s.pc + 1) u with
      | error f => rfl
      | ok q => simp [Except.map, OpcodeForm.operandBytes, State.setPc, BitVec.add_assoc]
    | f3 mk =>
      simp only [hp, hc, State.setPc_pc, State.setPc_config, busRead_setPc]
      unfold readBytes
      cases h2 : busRead (s.pc + 1) u with
      | error f => rfl
      | ok q =>
        obtain ⟨b, w⟩ := q
        simp only [Except.map, bind, Except.bind, State.setPc_pc, busRead_setPc, readBytes_one]
        cases h3 : busRead (s.pc + 1 + 1) w with
        | error f => rfl
        | ok q => simp [OpcodeForm.operandBytes, State.setPc, BitVec.add_assoc]

/-- Reading bytes, split at the first one. -/
theorem readBytes_succ {n : Nat} {a : Addr} {b : Byte} {bytes : List Byte} {s u : State} :
    readBytes (n + 1) a s = .ok (b :: bytes, u) ↔
      ∃ v, busRead a s = .ok (b, v) ∧ readBytes n (a + 1) v = .ok (bytes, u) := by
  conv => lhs; lhs; unfold readBytes
  cases h : busRead a s with
  | error f => simp only [bind, Except.bind, reduceCtorEq, false_and, exists_false]
  | ok p =>
    obtain ⟨c, v⟩ := p
    cases h' : readBytes n (a + 1) v with
    | error f =>
      simp only [bind, Except.bind, h', reduceCtorEq, false_iff, not_exists, not_and]
      rintro w hw
      cases hw
      simp only [h', reduceCtorEq, not_false_iff]
    | ok q =>
      simp only [bind, Except.bind, h', Except.ok.injEq, Prod.mk.injEq, List.cons.injEq]
      constructor
      · rintro ⟨⟨rfl, rfl⟩, rfl⟩
        exact ⟨v, ⟨rfl, rfl⟩, h'⟩
      · rintro ⟨w, ⟨rfl, rfl⟩, hw⟩
        cases h'.symm.trans hw
        exact ⟨⟨rfl, rfl⟩, rfl⟩

/-- Reading fails at the first unmapped address, if any (20_memory.md R69, R77). -/
theorem readBytes_error {n : Nat} : ∀ {k : Nat} {a : Addr} {s : State}, k < n →
    (∀ j < k, mapped s.config (a + BitVec.ofNat 16 j) = true) → mapped s.config (a + BitVec.ofNat 16 k) = false →
    readBytes n a s = .error (.outOfRange (a + BitVec.ofNat 16 k)) := by
  induction n with
  | zero => exact fun h => absurd h (Nat.not_lt_zero _)
  | succ n ih =>
    intro k a s hk hj hm
    have zero : a + BitVec.ofNat 16 0 = a := BitVec.add_zero a
    cases k with
    | zero =>
      rw [zero] at hm ⊢
      unfold readBytes
      rw [busRead_unmappedAddr hm]
      rfl
    | succ k =>
      have shift : ∀ j : Nat, a + 1 + BitVec.ofNat 16 j = a + BitVec.ofNat 16 (j + 1) := fun j => by
        rw [BitVec.add_assoc, Nat.add_comm j 1, BitVec.ofNat_add]
        rfl
      obtain ⟨b, v, hb⟩ := busRead_mapped (zero ▸ hj 0 (Nat.succ_pos k))
      have hc := (busRead_keeps hb).2
      have := ih (k := k) (a := a + 1) (s := v) (by omega) (fun j hlt => by rw [shift, hc]; exact hj _ (by omega))
        (by rw [shift, hc]; exact hm)
      unfold readBytes
      simp only [hb, bind, Except.bind, this, shift]

/-- A fetch whose reads succeed gives what the bytes decode to (30_encoding.md R102, R127). -/
theorem fetch_of_readBytes {op : Byte} {operands skipped : List Byte} {i : Instr} {s u : State}
    (h : readBytes (1 + operandsRead op) s.pc s = .ok (op :: operands, u))
    (hd : decode (op :: operands ++ skipped) = .ok (i, [])) :
    fetch s = .ok ((i, cyclesOf s.config op), u.setPc (s.pc + BitVec.ofNat 16 i.length)) := by
  have hl := opcodeEntry_hasLength op
  rw [Nat.add_comm] at h
  obtain ⟨v, h1, h2⟩ := readBytes_succ.1 h
  rw [fetch_eq, h1]
  simp only [bind, Except.bind, h2]
  have hn : operands.length = operandsRead op := readBytes_length h2
  unfold operandsRead at hn
  unfold OpcodeForm.HasLength at hl
  simp only [decode, List.cons_append] at hd
  cases hf : (opcodeEntry op).form with
  | f1 j =>
    simp only [hf, Except.ok.injEq, Prod.mk.injEq] at hd hl
    rw [← hd.1, hl]
  | f2Skip j =>
    simp only [hf, List.length_eq_zero_iff] at hd hl hn
    subst hn
    cases skipped with
    | nil => simp at hd
    | cons b r =>
      simp only [List.nil_append, Except.ok.injEq, Prod.mk.injEq] at hd
      rw [← hd.1, hl]
  | f2 mk =>
    simp only [hf, List.length_eq_one_iff] at hd hl hn
    obtain ⟨b, rfl⟩ := hn
    simp only [List.cons_append, List.nil_append, Except.ok.injEq, Prod.mk.injEq] at hd ⊢
    rw [← hd.1, hl b]
    exact ⟨⟨rfl, trivial⟩, rfl⟩
  | f3 mk =>
    simp only [hf, List.length_eq_two] at hd hl hn
    obtain ⟨b, c, rfl⟩ := hn
    simp only [List.cons_append, List.nil_append, Except.ok.injEq, Prod.mk.injEq] at hd ⊢
    rw [← hd.1, hl b c]
    exact ⟨⟨rfl, trivial⟩, rfl⟩

/-- A fetch whose operand reads fail, fails as they do. -/
theorem fetch_operand_error {op : Byte} {s u : State} {f : Fault} (h1 : busRead s.pc s = .ok (op, u))
    (h2 : readBytes (operandsRead op) (s.pc + 1) u = .error f) : fetch s = .error f := by
  rw [fetch_eq, h1]
  simp only [bind, Except.bind, h2]

/-! ## Interrupts and the instruction boundary -/

/-- The NMI and IRQ sequences as one update (60_exceptions.md R266). -/
theorem interruptSequence_eq {vec : Addr} (h : vec = Config.vecNmi ∨ vec = Config.vecReset ∨ vec = Config.vecIrq)
    (s : State) : interruptSequence vec s = .ok
      ((((((s.setMem (((s.mem.write (stackAddr s.sp).toNat (hiByte s.pc)).write
        (stackAddr (s.sp - 1)).toNat (loByte s.pc)).write (stackAddr (s.sp - 1 - 1)).toNat (statusPushedByHardware s.p))).setSp
        (s.sp - 1 - 1 - 1)).setFlag .i true).setPc (s.vector vec)).setWaiting false).setPendingCycles 7) := by
  rw [interruptSequence, enterException_eq h]
  rfl

/-- Everything an instruction boundary can do (60_exceptions.md R265). -/
theorem serviceBoundary_next {s t : State} (h : serviceBoundary s = .next t) :
    (s.resetPending = true ∧ resetSequence 7 s = .ok t) ∨
    (s.resetPending = false ∧ s.nmiPending = true ∧
      interruptSequence Config.vecNmi (s.setNmiPending false) = .ok t) ∨
    (s.resetPending = false ∧ s.nmiPending = false ∧ s.irqPending = true ∧ s.flag .i = false ∧
      interruptSequence Config.vecIrq (s.setIrqPending false) = .ok t) ∨
    (s.resetPending = false ∧ s.nmiPending = false ∧ (s.irqPending = true → s.flag .i = true) ∧
      ∃ i n u v, fetch s = .ok ((i, n), u) ∧ exec i u = .next v ∧ t = v.setPendingCycles n) := by
  unfold serviceBoundary at h
  split at h
  · next hr => exact .inl ⟨hr, toOutcome_next.1 h⟩
  · next hr =>
    simp only [Bool.not_eq_true] at hr
    split at h
    · next hn => exact .inr (.inl ⟨hr, hn, toOutcome_next.1 h⟩)
    · next hn =>
      simp only [Bool.not_eq_true] at hn
      split at h
      · next hi =>
        simp only [Bool.and_eq_true, Bool.not_eq_true'] at hi
        exact .inr (.inr (.inl ⟨hr, hn, hi.1, hi.2, toOutcome_next.1 h⟩))
      · next hi =>
        refine .inr (.inr (.inr ⟨hr, hn, fun hq => ?_, executeInstruction_next h⟩))
        cases hf : s.flag .i <;> simp [hq, hf] at hi ⊢

/-! ## A property kept by a step -/

/-- Kept by the operations of an instruction, by the sequences and latches of the CPU step, and by the bus tick. -/
structure StepClosed (P : State → Prop) : Prop extends Closed P where
  waiting       : ∀ v s, P s → P (s.setWaiting v)
  halted        : ∀ v s, P s → P (s.setHalted v)
  pendingCycles : ∀ v s, P s → P (s.setPendingCycles v)
  nmiPending    : ∀ v s, P s → P (s.setNmiPending v)
  irqPending    : ∀ v s, P s → P (s.setIrqPending v)
  reset         : ∀ n s t, resetSequence n s = .ok t → P s → P t
  tick          : ∀ s, P s → P (busTick s)
  cycleCount    : ∀ v s, P s → P (s.setCycleCount v)

namespace StepClosed

variable {P : State → Prop} (h : StepClosed P) {s t : State}
include h

theorem interrupt {vec : Addr} (hs : P s) (e : interruptSequence vec s = .ok t) : P t :=
  Closed.bindState (fun _ e => h.toClosed.enterException hs e)
    (fun _ hu e => by cases e; exact h.pendingCycles _ _ (h.waiting _ _ hu)) e

theorem exec {i : Instr} (hs : P s) (e : Machine.exec i s = .next t) : P t := by
  rcases h.toClosed.exec hs e with ht | ⟨-, rfl⟩ | ⟨-, rfl⟩
  · exact ht
  · exact h.waiting _ _ hs
  · exact h.halted _ _ hs

theorem boundary (hs : P s) (e : serviceBoundary s = .next t) : P t := by
  rcases serviceBoundary_next e with ⟨-, e⟩ | ⟨-, -, e⟩ | ⟨-, -, -, -, e⟩ | ⟨-, -, -, i, n, u, v, hf, he, rfl⟩
  · exact h.reset _ _ _ e hs
  · exact h.interrupt (h.nmiPending _ _ hs) e
  · exact h.interrupt (h.irqPending _ _ hs) e
  · exact h.pendingCycles _ _ (h.exec (h.toClosed.fetch hs hf) he)

theorem cpu (hs : P s) (e : cpuStep s = .next t) : P t := by
  rcases cpuStep_next e with ⟨-, -, rfl⟩ | ⟨-, -, -, rfl⟩ | ⟨-, -, -, rfl⟩ | ⟨-, -, -, u, hu, rfl⟩
  · exact h.pendingCycles _ _ hs
  · exact hs
  · exact h.pendingCycles _ _ (h.waiting _ _ hs)
  · exact h.pendingCycles _ _ (h.boundary (h.waiting _ _ hs) hu)

/-- Once the host's due actions have kept it, the step keeps it. -/
theorem step {u : State} (hd : performDue s = .ok u) (hu : P u) (e : Machine.step s = .next t) : P t := by
  obtain ⟨u', v, hu', hv, rfl⟩ := step_next e
  cases hd.symm.trans hu'
  exact h.cycleCount _ _ (h.tick _ (h.cpu hu hv))

end StepClosed

/-! ## The host's actions -/

/-- Several actions as a fold. -/
theorem performAll_eq (l : List HostAction) : ∀ s : State, performAll l s = l.foldlM (fun t h => h.perform t) s := by
  induction l with
  | nil => exact fun _ => rfl
  | cons h l ih => exact fun s => bind_congr ih

/-- The due actions, on the state with them removed (10_state.md R38, log 2). -/
theorem performDue_eq (s : State) :
    performDue s = (s.hostInput.headD []).foldlM (fun t h => h.perform t) (s.setHostInput s.hostInput.tail) := by
  unfold performDue
  split
  · next h =>
    obtain ⟨⟩ := s
    cases h
    rfl
  · next h =>
    rw [h]
    exact performAll_eq _ _

/-- A step once the due actions are performed (00_scope.md R5). -/
theorem step_eq {s u : State} (h : performDue s = .ok u) :
    step s = mapNext (fun t => (busTick t).setCycleCount (t.cycleCount + 1)) (cpuStep u) := by
  unfold step
  rw [h]
  rfl

/-- What every due action keeps, all of them keep. -/
theorem performAll_keeps {P : State → Prop} {l : List HostAction} :
    ∀ {s t : State}, (∀ a ∈ l, ∀ s t, a.perform s = .ok t → P s → P t) → P s → performAll l s = .ok t → P t := by
  induction l with
  | nil =>
    intro s t _ hs e
    cases e
    exact hs
  | cons a l ih =>
    intro s t ha hs e
    unfold performAll at e
    cases hp : a.perform s with
    | error f => simp [hp, bind, Except.bind] at e
    | ok u =>
      simp only [hp, bind, Except.bind] at e
      exact ih (fun b hb => ha b (by simp [hb])) (ha a (by simp) s u hp hs) e

theorem performDue_keeps {P : State → Prop} {s t : State} (hq : ∀ v s, P s → P (s.setHostInput v))
    (ha : ∀ a ∈ s.hostInput.headD [], ∀ s t, a.perform s = .ok t → P s → P t) (hs : P s) (e : performDue s = .ok t) :
    P t := by
  unfold performDue at e
  split at e
  · cases e
    exact hs
  · next now later hi =>
    rw [hi] at ha
    exact performAll_keeps ha (hq _ _ hs) e

/-- No host action fails. -/
theorem perform_ok (a : HostAction) (s : State) : ∃ t, a.perform s = .ok t := by
  cases a
  case resetImmediate => exact ⟨_, resetSequence_eq 0 s⟩
  all_goals exact ⟨_, rfl⟩

theorem performAll_ok (l : List HostAction) : ∀ s : State, ∃ t, performAll l s = .ok t := by
  induction l with
  | nil => exact fun s => ⟨s, rfl⟩
  | cons a l ih =>
    intro s
    obtain ⟨u, hu⟩ := perform_ok a s
    obtain ⟨t, ht⟩ := ih u
    exact ⟨t, by simp [performAll, hu, ht, bind, Except.bind]⟩

theorem performDue_ok (s : State) : ∃ t, performDue s = .ok t := by
  unfold performDue
  split
  · exact ⟨s, rfl⟩
  · exact performAll_ok _ _

end Sys2Proof.Machine
end

