-- ==== Sys2Proof/Tests/Slice0.lean ====
section
/-! SUPPORT. Tests: ill-formed terms refused; words written out from the map 30_encoding.md R125 decode to what they stand
for; single steps with the expected values of 95_test_vectors.md (its vector named in each test) or of a rule's own
example; and, for every obligation with hypotheses, a state and operands that meet them, for each clause at the ends of
its range. -/

namespace Sys2Proof.Tests

open Sys2Proof.Machine

/-! ## WellFormed: for each check, a term it refuses -/

theorem test_illFormed_lda : Instr.wellFormed (.lda (.mem (.zpy 0x10))) = false := by decide
theorem test_illFormed_ldx_zpx : Instr.wellFormed (.ldx (.mem (.zpx 0x10))) = false := by decide
theorem test_illFormed_ldy_aby : Instr.wellFormed (.ldy (.mem (.aby 0x1000))) = false := by decide
theorem test_illFormed_cpx_zpx : Instr.wellFormed (.cpx (.mem (.zpx 0x10))) = false := by decide
theorem test_illFormed_cpy_izp : Instr.wellFormed (.cpy (.mem (.izp 0x10))) = false := by decide
theorem test_illFormed_bit_izx : Instr.wellFormed (.bit (.mem (.izx 0x10))) = false := by decide
theorem test_illFormed_sta_zpy : Instr.wellFormed (.sta (.zpy 0x10)) = false := by decide
theorem test_illFormed_stx_zpx : Instr.wellFormed (.stx (.zpx 0x10)) = false := by decide
theorem test_illFormed_sty_aby : Instr.wellFormed (.sty (.aby 0x1000)) = false := by decide
theorem test_illFormed_stz_izp : Instr.wellFormed (.stz (.izp 0x10)) = false := by decide
theorem test_illFormed_asl_aby : Instr.wellFormed (.asl (.mem (.aby 0x1000))) = false := by decide
theorem test_illFormed_inc_izx : Instr.wellFormed (.inc (.mem (.izx 0x10))) = false := by decide
theorem test_illFormed_trb_zpx : Instr.wellFormed (.trb (.zpx 0x10)) = false := by decide
theorem test_illFormed_tsb_abx : Instr.wellFormed (.tsb (.abx 0x1000)) = false := by decide
theorem test_illFormed_adc_zpy : Instr.wellFormed (.adc (.mem (.zpy 0x10))) = false := by decide
theorem test_illFormed_nop_imp : Instr.wellFormed (.nopReserved (.imp 0xEA)) = false := by decide
theorem test_illFormed_nop_imp_wai : Instr.wellFormed (.nopReserved (.imp 0xCB)) = false := by decide
theorem test_illFormed_nop_imm : Instr.wellFormed (.nopReserved (.imm 0x03)) = false := by decide
theorem test_illFormed_nop_zp : Instr.wellFormed (.nopReserved (.zp 0x54 0x10)) = false := by decide
theorem test_illFormed_nop_zpx : Instr.wellFormed (.nopReserved (.zpx 0x44 0x10)) = false := by decide
theorem test_illFormed_nop_abs : Instr.wellFormed (.nopReserved (.abs 0x4C 0x1000)) = false := by decide

/-- No ill-formed term is encoded. -/
theorem test_illFormed_not_encoded : encode (.stx (.zpx 0x10)) = [] ∧ encode (.nopReserved (.imp 0xEA)) = [] := by decide

/-! ## Decoding: words from the map 30_encoding.md R125, operand bytes low byte first (R103) -/

/-- Every mode of LDA. -/
theorem test_decode_lda :
    decode [0xA9, 0x80] = .ok (.lda (.imm 0x80), []) ∧
    decode [0xA5, 0x10] = .ok (.lda (.mem (.zp 0x10)), []) ∧
    decode [0xB5, 0x10] = .ok (.lda (.mem (.zpx 0x10)), []) ∧
    decode [0xAD, 0x34, 0x12] = .ok (.lda (.mem (.abs 0x1234)), []) ∧
    decode [0xBD, 0x34, 0x12] = .ok (.lda (.mem (.abx 0x1234)), []) ∧
    decode [0xB9, 0x34, 0x12] = .ok (.lda (.mem (.aby 0x1234)), []) ∧
    decode [0xA1, 0x20] = .ok (.lda (.mem (.izx 0x20)), []) ∧
    decode [0xB1, 0x20] = .ok (.lda (.mem (.izy 0x20)), []) ∧
    decode [0xB2, 0x20] = .ok (.lda (.mem (.izp 0x20)), []) := by
  refine ⟨rfl, rfl, rfl, rfl, rfl, rfl, rfl, rfl, rfl⟩

/-- LDX, LDY, STA, STX, STY, STZ. -/
theorem test_decode_loadStore :
    decode [0xB6, 0x80] = .ok (.ldx (.mem (.zpy 0x80)), []) ∧
    decode [0xBC, 0x00, 0x02] = .ok (.ldy (.mem (.abx 0x0200)), []) ∧
    decode [0x8D, 0x02, 0x60] = .ok (.sta (.abs 0x6002), []) ∧
    decode [0x92, 0x50] = .ok (.sta (.izp 0x50), []) ∧
    decode [0x96, 0xFF] = .ok (.stx (.zpy 0xFF), []) ∧
    decode [0x94, 0x20] = .ok (.sty (.zpx 0x20), []) ∧
    decode [0x9C, 0x00, 0x02] = .ok (.stz (.abs 0x0200), []) ∧
    decode [0x9E, 0x00, 0x02] = .ok (.stz (.abx 0x0200), []) := by
  refine ⟨rfl, rfl, rfl, rfl, rfl, rfl, rfl, rfl⟩

/-- Transfers and stack. -/
theorem test_decode_transferStack :
    decode [0xAA] = .ok (.tax, []) ∧
    decode [0xA8] = .ok (.tay, []) ∧
    decode [0x8A] = .ok (.txa, []) ∧
    decode [0x98] = .ok (.tya, []) ∧
    decode [0xBA] = .ok (.tsx, []) ∧
    decode [0x9A] = .ok (.txs, []) ∧
    decode [0x48] = .ok (.pha, []) ∧
    decode [0x08] = .ok (.php, []) ∧
    decode [0x68] = .ok (.pla, []) ∧
    decode [0x28] = .ok (.plp, []) ∧
    decode [0xDA] = .ok (.phx, []) ∧
    decode [0x5A] = .ok (.phy, []) ∧
    decode [0xFA] = .ok (.plx, []) ∧
    decode [0x7A] = .ok (.ply, []) := by
  refine ⟨rfl, rfl, rfl, rfl, rfl, rfl, rfl, rfl, rfl, rfl, rfl, rfl, rfl, rfl⟩

/-- ADC, SBC, CMP, CPX, CPY. -/
theorem test_decode_arithmetic :
    decode [0x69, 0x01] = .ok (.adc (.imm 0x01), []) ∧
    decode [0x72, 0x20] = .ok (.adc (.mem (.izp 0x20)), []) ∧
    decode [0xE9, 0x01] = .ok (.sbc (.imm 0x01), []) ∧
    decode [0xF1, 0x10] = .ok (.sbc (.mem (.izy 0x10)), []) ∧
    decode [0xC9, 0x40] = .ok (.cmp (.imm 0x40), []) ∧
    decode [0xEC, 0x00, 0x02] = .ok (.cpx (.mem (.abs 0x0200)), []) ∧
    decode [0xC4, 0x10] = .ok (.cpy (.mem (.zp 0x10)), []) := by
  refine ⟨rfl, rfl, rfl, rfl, rfl, rfl, rfl⟩

/-- AND, ORA, EOR, BIT, the shifts, TRB, TSB. -/
theorem test_decode_logicShift :
    decode [0x29, 0x0F] = .ok (.and (.imm 0x0F), []) ∧
    decode [0x05, 0x10] = .ok (.ora (.mem (.zp 0x10)), []) ∧
    decode [0x49, 0xFF] = .ok (.eor (.imm 0xFF), []) ∧
    decode [0x89, 0xC0] = .ok (.bit (.imm 0xC0), []) ∧
    decode [0x2C, 0x00, 0x02] = .ok (.bit (.mem (.abs 0x0200)), []) ∧
    decode [0x0A] = .ok (.asl .acc, []) ∧
    decode [0x5E, 0xFF, 0x01] = .ok (.lsr (.mem (.abx 0x01FF)), []) ∧
    decode [0x26, 0x10] = .ok (.rol (.mem (.zp 0x10)), []) ∧
    decode [0x6E, 0x00, 0x02] = .ok (.ror (.mem (.abs 0x0200)), []) ∧
    decode [0x14, 0x10] = .ok (.trb (.zp 0x10), []) ∧
    decode [0x0C, 0x00, 0x02] = .ok (.tsb (.abs 0x0200), []) := by
  refine ⟨rfl, rfl, rfl, rfl, rfl, rfl, rfl, rfl, rfl, rfl, rfl⟩

/-- RMB0 to RMB7. -/
theorem test_decode_rmb :
    decode [0x07, 0x10] = .ok (.rmb0 0x10, []) ∧
    decode [0x17, 0x10] = .ok (.rmb1 0x10, []) ∧
    decode [0x27, 0x10] = .ok (.rmb2 0x10, []) ∧
    decode [0x37, 0x10] = .ok (.rmb3 0x10, []) ∧
    decode [0x47, 0x10] = .ok (.rmb4 0x10, []) ∧
    decode [0x57, 0x10] = .ok (.rmb5 0x10, []) ∧
    decode [0x67, 0x10] = .ok (.rmb6 0x10, []) ∧
    decode [0x77, 0x10] = .ok (.rmb7 0x10, []) := by
  refine ⟨rfl, rfl, rfl, rfl, rfl, rfl, rfl, rfl⟩

/-- SMB0 to SMB7. -/
theorem test_decode_smb :
    decode [0x87, 0x10] = .ok (.smb0 0x10, []) ∧
    decode [0x97, 0x10] = .ok (.smb1 0x10, []) ∧
    decode [0xA7, 0x10] = .ok (.smb2 0x10, []) ∧
    decode [0xB7, 0x10] = .ok (.smb3 0x10, []) ∧
    decode [0xC7, 0x10] = .ok (.smb4 0x10, []) ∧
    decode [0xD7, 0x10] = .ok (.smb5 0x10, []) ∧
    decode [0xE7, 0x10] = .ok (.smb6 0x10, []) ∧
    decode [0xF7, 0x10] = .ok (.smb7 0x10, []) := by
  refine ⟨rfl, rfl, rfl, rfl, rfl, rfl, rfl, rfl⟩

/-- Increments, decrements, flag instructions. -/
theorem test_decode_incDecFlags :
    decode [0x1A] = .ok (.inc .acc, []) ∧
    decode [0xFE, 0xFF, 0x01] = .ok (.inc (.mem (.abx 0x01FF)), []) ∧
    decode [0x3A] = .ok (.dec .acc, []) ∧
    decode [0xD6, 0x0E] = .ok (.dec (.mem (.zpx 0x0E)), []) ∧
    decode [0xE8] = .ok (.inx, []) ∧
    decode [0xCA] = .ok (.dex, []) ∧
    decode [0xC8] = .ok (.iny, []) ∧
    decode [0x88] = .ok (.dey, []) ∧
    decode [0x18] = .ok (.clc, []) ∧
    decode [0x38] = .ok (.sec, []) ∧
    decode [0x58] = .ok (.cli, []) ∧
    decode [0x78] = .ok (.sei, []) ∧
    decode [0xD8] = .ok (.cld, []) ∧
    decode [0xF8] = .ok (.sed, []) ∧
    decode [0xB8] = .ok (.clv, []) := by
  refine ⟨rfl, rfl, rfl, rfl, rfl, rfl, rfl, rfl, rfl, rfl, rfl, rfl, rfl, rfl, rfl⟩

/-- JMP in its three modes, JSR, RTS. -/
theorem test_decode_jumps :
    decode [0x4C, 0x34, 0x12] = .ok (.jmp (.abs 0x1234), []) ∧
    decode [0x6C, 0xFF, 0x10] = .ok (.jmp (.ind 0x10FF), []) ∧
    decode [0x7C, 0x00, 0x02] = .ok (.jmp (.iax 0x0200), []) ∧
    decode [0x20, 0x00, 0x90] = .ok (.jsr 0x9000, []) ∧
    decode [0x60] = .ok (.rts, []) := by
  refine ⟨rfl, rfl, rfl, rfl, rfl⟩

/-- The branches. -/
theorem test_decode_branches :
    decode [0x10, 0xFE] = .ok (.bpl 0xFE, []) ∧
    decode [0x30, 0xFE] = .ok (.bmi 0xFE, []) ∧
    decode [0x50, 0xFE] = .ok (.bvc 0xFE, []) ∧
    decode [0x70, 0xFE] = .ok (.bvs 0xFE, []) ∧
    decode [0x90, 0xFE] = .ok (.bcc 0xFE, []) ∧
    decode [0xB0, 0xFE] = .ok (.bcs 0xFE, []) ∧
    decode [0xD0, 0xFE] = .ok (.bne 0xFE, []) ∧
    decode [0xF0, 0xFE] = .ok (.beq 0xFE, []) ∧
    decode [0x80, 0xFE] = .ok (.bra 0xFE, []) := by
  refine ⟨rfl, rfl, rfl, rfl, rfl, rfl, rfl, rfl, rfl⟩

/-- BBR0 to BBR7: zero-page address, then offset (30_encoding.md R119). -/
theorem test_decode_bbr :
    decode [0x0F, 0x10, 0x05] = .ok (.bbr0 0x10 0x05, []) ∧
    decode [0x1F, 0x10, 0x05] = .ok (.bbr1 0x10 0x05, []) ∧
    decode [0x2F, 0x10, 0x05] = .ok (.bbr2 0x10 0x05, []) ∧
    decode [0x3F, 0x10, 0x05] = .ok (.bbr3 0x10 0x05, []) ∧
    decode [0x4F, 0x10, 0x05] = .ok (.bbr4 0x10 0x05, []) ∧
    decode [0x5F, 0x10, 0x05] = .ok (.bbr5 0x10 0x05, []) ∧
    decode [0x6F, 0x10, 0x05] = .ok (.bbr6 0x10 0x05, []) ∧
    decode [0x7F, 0x10, 0x05] = .ok (.bbr7 0x10 0x05, []) := by
  refine ⟨rfl, rfl, rfl, rfl, rfl, rfl, rfl, rfl⟩

/-- BBS0 to BBS7. -/
theorem test_decode_bbs :
    decode [0x8F, 0x10, 0x05] = .ok (.bbs0 0x10 0x05, []) ∧
    decode [0x9F, 0x10, 0x05] = .ok (.bbs1 0x10 0x05, []) ∧
    decode [0xAF, 0x10, 0x05] = .ok (.bbs2 0x10 0x05, []) ∧
    decode [0xBF, 0x10, 0x05] = .ok (.bbs3 0x10 0x05, []) ∧
    decode [0xCF, 0x10, 0x05] = .ok (.bbs4 0x10 0x05, []) ∧
    decode [0xDF, 0x10, 0x05] = .ok (.bbs5 0x10 0x05, []) ∧
    decode [0xEF, 0x10, 0x05] = .ok (.bbs6 0x10 0x05, []) ∧
    decode [0xFF, 0x10, 0x05] = .ok (.bbs7 0x10 0x05, []) := by
  refine ⟨rfl, rfl, rfl, rfl, rfl, rfl, rfl, rfl⟩

/-- NOP, BRK, RTI, WAI, STP. -/
theorem test_decode_system :
    decode [0xEA] = .ok (.nop, []) ∧
    decode [0x00] = .ok (.brk, []) ∧
    decode [0x40] = .ok (.rti, []) ∧
    decode [0xCB] = .ok (.wai, []) ∧
    decode [0xDB] = .ok (.stp, []) := by
  refine ⟨rfl, rfl, rfl, rfl, rfl⟩

/-- The five classes of reserved opcodes (30_encoding.md R127). -/
theorem test_decode_reserved :
    decode [0x03] = .ok (.nopReserved (.imp 0x03), []) ∧
    decode [0xFB] = .ok (.nopReserved (.imp 0xFB), []) ∧
    decode [0x02, 0xFF] = .ok (.nopReserved (.imm 0x02), []) ∧
    decode [0x44, 0x10] = .ok (.nopReserved (.zp 0x44 0x10), []) ∧
    decode [0x54, 0x10] = .ok (.nopReserved (.zpx 0x54 0x10), []) ∧
    decode [0x5C, 0x00, 0x40] = .ok (.nopReserved (.abs 0x5C 0x4000), []) := by
  refine ⟨rfl, rfl, rfl, rfl, rfl, rfl⟩

/-- Too few bytes (30_encoding.md R100). -/
theorem test_decode_short :
    decode [] = .error .noOpcode ∧ decode [0xA9] = .error (.missingOperand 0xA9) ∧
    decode [0xAD, 0x34] = .error (.missingOperand 0xAD) ∧ decode [0x02] = .error (.missingOperand 0x02) :=
  ⟨rfl, rfl, rfl, rfl⟩

/-- The host's numbering: the first byte is bits 7..0. -/
theorem test_decodeTableWord :
    decodeTableWord 24 0x1234AD = some (.lda (.mem (.abs 0x1234))) ∧ decodeTableWord 8 0x1234AD = some (.lda (.mem (.abs 0x0000))) := by
  decide

/-- A word placed by `withFetchWord` is run by the very next step: LDA #$80 (vector LS2). -/
theorem test_withFetchWord :
    (match step (State.reset.withFetchWord 16 0x80A9) with
      | .next t => decide (t.a = 0x80 ∧ t.p = 0xB4 ∧ t.pc = 0x0002 ∧ t.pendingCycles = 1 ∧ t.cycleCount = 1)
      | _ => false) = true := by
  decide

/-! ## Single steps -/

/-- The default start state of 95_test_vectors.md with other registers, and bytes of memory. -/
def start (a x y sp p : Byte) (pc : Addr) (mem : Memory) : State :=
  { State.reset with a := a, x := x, y := y, sp := sp, p := p, pc := pc, mem := mem }

/-- One step executes the bytes placed in memory; what the test looks at. -/
def outcome {α : Type} (s : State) (look : State → α) : Option α :=
  match step s with
  | .next t => some (look t)
  | _ => none

/-- The registers A, X, Y, SP, P, PC. -/
structure Cpu where
  a  : Byte
  x  : Byte
  y  : Byte
  sp : Byte
  p  : Byte
  pc : Addr
  deriving DecidableEq, Repr

/-- The registers of a state. -/
def cpu (t : State) : Cpu := ⟨t.a, t.x, t.y, t.sp, t.p, t.pc⟩

/-- The registers and one byte of memory. -/
def cpuAnd (a : Addr) (t : State) : Cpu × Byte := (cpu t, t.byteAt a)

/-- The registers, `waiting`, `halted` and the residual cycles. -/
def cpuAndStops (t : State) : Cpu × Bool × Bool × Nat := (cpu t, t.waiting, t.halted, t.pendingCycles)

/-- Vector LS5: `B5 80`. -/
theorem test_ls5 :
    outcome (start 0x00 0xFF 0x00 0xFD 0x34 0x8000 [(0x007F, 0x55), (0x017F, 0xAA), (0x8000, 0xB5), (0x8001, 0x80)])
      (cpu) = some ⟨0x55, 0xFF, 0x00, 0xFD, 0x34, 0x8002⟩ := by decide

/-- Vector LS8: `BD FF FF`. -/
theorem test_ls8 :
    outcome (start 0x00 0x02 0x00 0xFD 0x34 0x8000 [(0x0001, 0x77), (0x8000, 0xBD), (0x8001, 0xFF), (0x8002, 0xFF)])
      (cpu) = some ⟨0x77, 0x02, 0x00, 0xFD, 0x34, 0x8003⟩ := by decide

/-- Vector LS11: `A1 FF`. -/
theorem test_ls11 :
    outcome (start 0x00 0x00 0x00 0xFD 0x34 0x8000 [(0x0000, 0x03), (0x0100, 0x99), (0x0300, 0x5A), (0x8000, 0xA1), (0x8001, 0xFF)])
      (cpu) = some ⟨0x5A, 0x00, 0x00, 0xFD, 0x34, 0x8002⟩ := by decide

/-- Vector LS12: `B1 30`. -/
theorem test_ls12 :
    outcome (start 0x00 0x00 0x01 0xFD 0x34 0x8000 [(0x0030, 0xFF), (0x0031, 0x02), (0x0300, 0x11), (0x8000, 0xB1), (0x8001, 0x30)])
      (cpu) = some ⟨0x11, 0x00, 0x01, 0xFD, 0x34, 0x8002⟩ := by decide

/-- Vector LS16: `B6 80`. -/
theorem test_ls16 :
    outcome (start 0x00 0x00 0x90 0xFD 0x34 0x8000 [(0x0010, 0x08), (0x8000, 0xB6), (0x8001, 0x80)])
      (cpu) = some ⟨0x00, 0x08, 0x90, 0xFD, 0x34, 0x8002⟩ := by decide

/-- Vector LS19: `B4 10`. -/
theorem test_ls19 :
    outcome (start 0x00 0x05 0x00 0xFD 0x34 0x8000 [(0x0015, 0x81), (0x8000, 0xB4), (0x8001, 0x10)])
      (cpu) = some ⟨0x00, 0x05, 0x81, 0xFD, 0xB4, 0x8002⟩ := by decide

/-- Vector LS22: `8D 00 90`. -/
theorem test_ls22 :
    outcome (start 0x5A 0x00 0x00 0xFD 0x34 0x8000 [(0x8000, 0x8D), (0x8002, 0x90)])
      (cpuAnd 0x9000) = some (⟨0x5A, 0x00, 0x00, 0xFD, 0x34, 0x8003⟩, 0x00) := by decide

/-- Vector LS24: `91 30`. -/
theorem test_ls24 :
    outcome (start 0x77 0x00 0x02 0xFD 0x34 0x8000 [(0x0030, 0xFE), (0x0031, 0x02), (0x8000, 0x91), (0x8001, 0x30)])
      (cpuAnd 0x0300) = some (⟨0x77, 0x00, 0x02, 0xFD, 0x34, 0x8002⟩, 0x77) := by decide

/-- Vector LS27: `96 FF`. -/
theorem test_ls27 :
    outcome (start 0x00 0xAB 0x01 0xFD 0x34 0x8000 [(0x8000, 0x96), (0x8001, 0xFF)])
      (cpuAnd 0x0000) = some (⟨0x00, 0xAB, 0x01, 0xFD, 0x34, 0x8002⟩, 0xAB) := by decide

/-- Vector LS29: `94 20`. -/
theorem test_ls29 :
    outcome (start 0x00 0x01 0xCD 0xFD 0x34 0x8000 [(0x8000, 0x94), (0x8001, 0x20)])
      (cpuAnd 0x0021) = some (⟨0x00, 0x01, 0xCD, 0xFD, 0x34, 0x8002⟩, 0xCD) := by decide

/-- Vector LS31: `64 10`. -/
theorem test_ls31 :
    outcome (start 0xFF 0x00 0x00 0xFD 0xB4 0x8000 [(0x0010, 0xEE), (0x8000, 0x64), (0x8001, 0x10)])
      (cpuAnd 0x0010) = some (⟨0xFF, 0x00, 0x00, 0xFD, 0xB4, 0x8002⟩, 0x00) := by decide

/-- Vector TS1: `AA`. -/
theorem test_ts1 :
    outcome (start 0x80 0x00 0x00 0xFD 0x34 0x8000 [(0x8000, 0xAA)])
      (cpu) = some ⟨0x80, 0x80, 0x00, 0xFD, 0xB4, 0x8001⟩ := by decide

/-- Vector TS2: `A8`. -/
theorem test_ts2 :
    outcome (start 0x00 0x00 0x55 0xFD 0x34 0x8000 [(0x8000, 0xA8)])
      (cpu) = some ⟨0x00, 0x00, 0x00, 0xFD, 0x36, 0x8001⟩ := by decide

/-- Vector TS3: `8A`. -/
theorem test_ts3 :
    outcome (start 0xFF 0x7F 0x00 0xFD 0xB4 0x8000 [(0x8000, 0x8A)])
      (cpu) = some ⟨0x7F, 0x7F, 0x00, 0xFD, 0x34, 0x8001⟩ := by decide

/-- Vector TS4: `98`. -/
theorem test_ts4 :
    outcome (start 0x00 0x00 0xFF 0xFD 0x34 0x8000 [(0x8000, 0x98)])
      (cpu) = some ⟨0xFF, 0x00, 0xFF, 0xFD, 0xB4, 0x8001⟩ := by decide

/-- Vector TS5: `BA`. -/
theorem test_ts5 :
    outcome (start 0x00 0x00 0x00 0xFD 0x34 0x8000 [(0x8000, 0xBA)])
      (cpu) = some ⟨0x00, 0xFD, 0x00, 0xFD, 0xB4, 0x8001⟩ := by decide

/-- Vector TS6: `9A`. -/
theorem test_ts6 :
    outcome (start 0x00 0x00 0x00 0xFD 0xB4 0x8000 [(0x8000, 0x9A)])
      (cpu) = some ⟨0x00, 0x00, 0x00, 0x00, 0xB4, 0x8001⟩ := by decide

/-- Vector TS7: `48`. -/
theorem test_ts7 :
    outcome (start 0x42 0x00 0x00 0xFD 0x34 0x8000 [(0x8000, 0x48)])
      (cpuAnd 0x01FD) = some (⟨0x42, 0x00, 0x00, 0xFC, 0x34, 0x8001⟩, 0x42) := by decide

/-- Vector TS9: `08`. -/
theorem test_ts9 :
    outcome (start 0x00 0x00 0x00 0xFD 0x21 0x8000 [(0x8000, 0x08)])
      (cpuAnd 0x01FD) = some (⟨0x00, 0x00, 0x00, 0xFC, 0x21, 0x8001⟩, 0x31) := by decide

/-- Vector TS11: `68`. -/
theorem test_ts11 :
    outcome (start 0x00 0x00 0x00 0xFC 0x34 0x8000 [(0x01FD, 0x80), (0x8000, 0x68)])
      (cpu) = some ⟨0x80, 0x00, 0x00, 0xFD, 0xB4, 0x8001⟩ := by decide

/-- Vector TS12: `28`. -/
theorem test_ts12 :
    outcome (start 0x00 0x00 0x00 0xFC 0x34 0x8000 [(0x01FD, 0xFF), (0x8000, 0x28)])
      (cpu) = some ⟨0x00, 0x00, 0x00, 0xFD, 0xEF, 0x8001⟩ := by decide

/-- Vector TS14: `DA`. -/
theorem test_ts14 :
    outcome (start 0x00 0x01 0x00 0xFF 0x34 0x8000 [(0x8000, 0xDA)])
      (cpuAnd 0x01FF) = some (⟨0x00, 0x01, 0x00, 0xFE, 0x34, 0x8001⟩, 0x01) := by decide

/-- Vector TS15: `5A`. -/
theorem test_ts15 :
    outcome (start 0x00 0x00 0x80 0x00 0x34 0x8000 [(0x8000, 0x5A)])
      (cpuAnd 0x0100) = some (⟨0x00, 0x00, 0x80, 0xFF, 0x34, 0x8001⟩, 0x80) := by decide

/-- Vector TS16: `FA`. -/
theorem test_ts16 :
    outcome (start 0x00 0x00 0x00 0xFE 0x34 0x8000 [(0x01FF, 0x90), (0x8000, 0xFA)])
      (cpu) = some ⟨0x00, 0x90, 0x00, 0xFF, 0xB4, 0x8001⟩ := by decide

/-- Vector TS17: `7A`. -/
theorem test_ts17 :
    outcome (start 0x00 0x00 0x00 0xFF 0x34 0x8000 [(0x8000, 0x7A)])
      (cpu) = some ⟨0x00, 0x00, 0x00, 0x00, 0x36, 0x8001⟩ := by decide

/-- Vector AR3: `69 80`. -/
theorem test_ar3 :
    outcome (start 0x80 0x00 0x00 0xFD 0x34 0x8000 [(0x8000, 0x69), (0x8001, 0x80)])
      (cpu) = some ⟨0x00, 0x00, 0x00, 0xFD, 0x77, 0x8002⟩ := by decide

/-- Vector AR4: `69 FF`. -/
theorem test_ar4 :
    outcome (start 0xFF 0x00 0x00 0xFD 0x35 0x8000 [(0x8000, 0x69), (0x8001, 0xFF)])
      (cpu) = some ⟨0xFF, 0x00, 0x00, 0xFD, 0xB5, 0x8002⟩ := by decide

/-- Vector AR9: `E9 B0`. -/
theorem test_ar9 :
    outcome (start 0x50 0x00 0x00 0xFD 0x35 0x8000 [(0x8000, 0xE9), (0x8001, 0xB0)])
      (cpu) = some ⟨0xA0, 0x00, 0x00, 0xFD, 0xF4, 0x8002⟩ := by decide

/-- Vector AR11: `E9 01`. -/
theorem test_ar11 :
    outcome (start 0x80 0x00 0x00 0xFD 0x35 0x8000 [(0x8000, 0xE9), (0x8001, 0x01)])
      (cpu) = some ⟨0x7F, 0x00, 0x00, 0xFD, 0x75, 0x8002⟩ := by decide

/-- Vector AR17: `C9 3F`. -/
theorem test_ar17 :
    outcome (start 0x40 0x00 0x00 0xFD 0xF5 0x8000 [(0x8000, 0xC9), (0x8001, 0x3F)])
      (cpu) = some ⟨0x40, 0x00, 0x00, 0xFD, 0x75, 0x8002⟩ := by decide

/-- Vector AR21: `EC 00 02`. -/
theorem test_ar21 :
    outcome (start 0x00 0x00 0x00 0xFD 0x34 0x8000 [(0x0200, 0x01), (0x8000, 0xEC), (0x8002, 0x02)])
      (cpu) = some ⟨0x00, 0x00, 0x00, 0xFD, 0xB4, 0x8003⟩ := by decide

/-- Vector AR22: `C0 00`. -/
theorem test_ar22 :
    outcome (start 0x00 0x00 0xFF 0xFD 0x34 0x8000 [(0x8000, 0xC0)])
      (cpu) = some ⟨0x00, 0x00, 0xFF, 0xFD, 0xB5, 0x8002⟩ := by decide

/-- Vector LG1: `29 0F`. -/
theorem test_lg1 :
    outcome (start 0xF0 0x00 0x00 0xFD 0x34 0x8000 [(0x8000, 0x29), (0x8001, 0x0F)])
      (cpu) = some ⟨0x00, 0x00, 0x00, 0xFD, 0x36, 0x8002⟩ := by decide

/-- Vector LG3: `09 80`. -/
theorem test_lg3 :
    outcome (start 0x0F 0x00 0x00 0xFD 0x34 0x8000 [(0x8000, 0x09), (0x8001, 0x80)])
      (cpu) = some ⟨0x8F, 0x00, 0x00, 0xFD, 0xB4, 0x8002⟩ := by decide

/-- Vector LG6: `49 FF`. -/
theorem test_lg6 :
    outcome (start 0x55 0x00 0x00 0xFD 0x34 0x8000 [(0x8000, 0x49), (0x8001, 0xFF)])
      (cpu) = some ⟨0xAA, 0x00, 0x00, 0xFD, 0xB4, 0x8002⟩ := by decide

/-- Vector LG8: `2C 00 02`. -/
theorem test_lg8 :
    outcome (start 0xFF 0x00 0x00 0xFD 0xF4 0x8000 [(0x0200, 0x3F), (0x8000, 0x2C), (0x8002, 0x02)])
      (cpu) = some ⟨0xFF, 0x00, 0x00, 0xFD, 0x34, 0x8003⟩ := by decide

/-- Vector LG9: `89 C0`. -/
theorem test_lg9 :
    outcome (start 0x01 0x00 0x00 0xFD 0x34 0x8000 [(0x8000, 0x89), (0x8001, 0xC0)])
      (cpu) = some ⟨0x01, 0x00, 0x00, 0xFD, 0x36, 0x8002⟩ := by decide

/-- Vector LG14: `06 10`. -/
theorem test_lg14 :
    outcome (start 0x00 0x00 0x00 0xFD 0x34 0x8000 [(0x0010, 0xC0), (0x8000, 0x06), (0x8001, 0x10)])
      (cpuAnd 0x0010) = some (⟨0x00, 0x00, 0x00, 0xFD, 0xB5, 0x8002⟩, 0x80) := by decide

/-- Vector LG16: `5E FF 01`. -/
theorem test_lg16 :
    outcome (start 0x00 0x01 0x00 0xFD 0x34 0x8000 [(0x0200, 0x82), (0x8000, 0x5E), (0x8001, 0xFF), (0x8002, 0x01)])
      (cpuAnd 0x0200) = some (⟨0x00, 0x01, 0x00, 0xFD, 0x34, 0x8003⟩, 0x41) := by decide

/-- Vector LG17: `2A`. -/
theorem test_lg17 :
    outcome (start 0x80 0x00 0x00 0xFD 0x35 0x8000 [(0x8000, 0x2A)])
      (cpu) = some ⟨0x01, 0x00, 0x00, 0xFD, 0x35, 0x8001⟩ := by decide

/-- Vector LG20: `6A`. -/
theorem test_lg20 :
    outcome (start 0x01 0x00 0x00 0xFD 0x35 0x8000 [(0x8000, 0x6A)])
      (cpu) = some ⟨0x80, 0x00, 0x00, 0xFD, 0xB5, 0x8001⟩ := by decide

/-- Vector LG24: `1C 00 02`. -/
theorem test_lg24 :
    outcome (start 0xC0 0x00 0x00 0xFD 0xF4 0x8000 [(0x0200, 0x3C), (0x8000, 0x1C), (0x8002, 0x02)])
      (cpuAnd 0x0200) = some (⟨0xC0, 0x00, 0x00, 0xFD, 0xF6, 0x8003⟩, 0x3C) := by decide

/-- Vector LG25: `04 10`. -/
theorem test_lg25 :
    outcome (start 0x0F 0x00 0x00 0xFD 0x34 0x8000 [(0x0010, 0x30), (0x8000, 0x04), (0x8001, 0x10)])
      (cpuAnd 0x0010) = some (⟨0x0F, 0x00, 0x00, 0xFD, 0x36, 0x8002⟩, 0x3F) := by decide

/-- Vector LG27: `37 10`. -/
theorem test_lg27 :
    outcome (start 0x00 0x00 0x00 0xFD 0xF7 0x8000 [(0x0010, 0xFF), (0x8000, 0x37), (0x8001, 0x10)])
      (cpuAnd 0x0010) = some (⟨0x00, 0x00, 0x00, 0xFD, 0xF7, 0x8002⟩, 0xF7) := by decide

/-- Vector LG30: `87 FF`. -/
theorem test_lg30 :
    outcome (start 0x00 0x00 0x00 0xFD 0x34 0x8000 [(0x00FF, 0xFE), (0x8000, 0x87), (0x8001, 0xFF)])
      (cpuAnd 0x00FF) = some (⟨0x00, 0x00, 0x00, 0xFD, 0x34, 0x8002⟩, 0xFF) := by decide

/-- Vector ID1: `E6 10`. -/
theorem test_id1 :
    outcome (start 0x00 0x00 0x00 0xFD 0x35 0x8000 [(0x0010, 0xFF), (0x8000, 0xE6), (0x8001, 0x10)])
      (cpuAnd 0x0010) = some (⟨0x00, 0x00, 0x00, 0xFD, 0x37, 0x8002⟩, 0x00) := by decide

/-- Vector ID7: `D6 0E`. -/
theorem test_id7 :
    outcome (start 0x00 0x02 0x00 0xFD 0x34 0x8000 [(0x0010, 0x80), (0x8000, 0xD6), (0x8001, 0x0E)])
      (cpuAnd 0x0010) = some (⟨0x00, 0x02, 0x00, 0xFD, 0x34, 0x8002⟩, 0x7F) := by decide

/-- Vector ID8: `E8`. -/
theorem test_id8 :
    outcome (start 0x00 0xFF 0x00 0xFD 0x34 0x8000 [(0x8000, 0xE8)])
      (cpu) = some ⟨0x00, 0x00, 0x00, 0xFD, 0x36, 0x8001⟩ := by decide

/-- Vector ID9: `CA`. -/
theorem test_id9 :
    outcome (start 0x00 0x00 0x00 0xFD 0x34 0x8000 [(0x8000, 0xCA)])
      (cpu) = some ⟨0x00, 0xFF, 0x00, 0xFD, 0xB4, 0x8001⟩ := by decide

/-- Vector ID10: `C8`. -/
theorem test_id10 :
    outcome (start 0x00 0x00 0x7F 0xFD 0x34 0x8000 [(0x8000, 0xC8)])
      (cpu) = some ⟨0x00, 0x00, 0x80, 0xFD, 0xB4, 0x8001⟩ := by decide

/-- Vector ID11: `88`. -/
theorem test_id11 :
    outcome (start 0x00 0x00 0x01 0xFD 0x34 0x8000 [(0x8000, 0x88)])
      (cpu) = some ⟨0x00, 0x00, 0x00, 0xFD, 0x36, 0x8001⟩ := by decide

/-- Vector ID12: `18`. -/
theorem test_id12 :
    outcome (start 0x00 0x00 0x00 0xFD 0xFF 0x8000 [(0x8000, 0x18)])
      (cpu) = some ⟨0x00, 0x00, 0x00, 0xFD, 0xFE, 0x8001⟩ := by decide

/-- Vector ID13: `38`. -/
theorem test_id13 :
    outcome (start 0x00 0x00 0x00 0xFD 0x20 0x8000 [(0x8000, 0x38)])
      (cpu) = some ⟨0x00, 0x00, 0x00, 0xFD, 0x21, 0x8001⟩ := by decide

/-- Vector ID14: `58`. -/
theorem test_id14 :
    outcome (start 0x00 0x00 0x00 0xFD 0xFF 0x8000 [(0x8000, 0x58)])
      (cpu) = some ⟨0x00, 0x00, 0x00, 0xFD, 0xFB, 0x8001⟩ := by decide

/-- Vector ID15: `78`. -/
theorem test_id15 :
    outcome (start 0x00 0x00 0x00 0xFD 0x20 0x8000 [(0x8000, 0x78)])
      (cpu) = some ⟨0x00, 0x00, 0x00, 0xFD, 0x24, 0x8001⟩ := by decide

/-- Vector ID16: `D8`. -/
theorem test_id16 :
    outcome (start 0x00 0x00 0x00 0xFD 0xFF 0x8000 [(0x8000, 0xD8)])
      (cpu) = some ⟨0x00, 0x00, 0x00, 0xFD, 0xF7, 0x8001⟩ := by decide

/-- Vector ID17: `F8`. -/
theorem test_id17 :
    outcome (start 0x00 0x00 0x00 0xFD 0x20 0x8000 [(0x8000, 0xF8)])
      (cpu) = some ⟨0x00, 0x00, 0x00, 0xFD, 0x28, 0x8001⟩ := by decide

/-- Vector ID18: `B8`. -/
theorem test_id18 :
    outcome (start 0x00 0x00 0x00 0xFD 0xFF 0x8000 [(0x8000, 0xB8)])
      (cpu) = some ⟨0x00, 0x00, 0x00, 0xFD, 0xBF, 0x8001⟩ := by decide

/-- Vector CF1: `4C 34 12`. -/
theorem test_cf1 :
    outcome (start 0x00 0x00 0x00 0xFD 0x34 0x8000 [(0x8000, 0x4C), (0x8001, 0x34), (0x8002, 0x12)])
      (cpu) = some ⟨0x00, 0x00, 0x00, 0xFD, 0x34, 0x1234⟩ := by decide

/-- Vector CF2: `6C FF 10`. -/
theorem test_cf2 :
    outcome (start 0x00 0x00 0x00 0xFD 0x34 0x8000 [(0x1000, 0x56), (0x10FF, 0x34), (0x1100, 0x12), (0x8000, 0x6C), (0x8001, 0xFF), (0x8002, 0x10)])
      (cpu) = some ⟨0x00, 0x00, 0x00, 0xFD, 0x34, 0x1234⟩ := by decide

/-- Vector CF3: `7C 00 02`. -/
theorem test_cf3 :
    outcome (start 0x00 0x02 0x00 0xFD 0x34 0x8000 [(0x0203, 0x90), (0x8000, 0x7C), (0x8002, 0x02)])
      (cpu) = some ⟨0x00, 0x02, 0x00, 0xFD, 0x34, 0x9000⟩ := by decide

/-- Vector CF6: `60`. -/
theorem test_cf6 :
    outcome (start 0x00 0x00 0x00 0xFD 0x34 0x8000 [(0x01FE, 0xFF), (0x01FF, 0xFF), (0x8000, 0x60)])
      (cpu) = some ⟨0x00, 0x00, 0x00, 0xFF, 0x34, 0x0000⟩ := by decide

/-- Vector CF7: `20 34 12`. -/
theorem test_cf7 :
    outcome (start 0x00 0x00 0x00 0x00 0x34 0x8000 [(0x8000, 0x20), (0x8001, 0x34), (0x8002, 0x12)])
      (cpuAnd 0x01FF) = some (⟨0x00, 0x00, 0x00, 0xFE, 0x34, 0x1234⟩, 0x02) := by decide

/-- Vector CF8: `10 05`. -/
theorem test_cf8 :
    outcome (start 0x00 0x00 0x00 0xFD 0x34 0x8000 [(0x8000, 0x10), (0x8001, 0x05)])
      (cpu) = some ⟨0x00, 0x00, 0x00, 0xFD, 0x34, 0x8007⟩ := by decide

/-- Vector CF10: `30 FE`. -/
theorem test_cf10 :
    outcome (start 0x00 0x00 0x00 0xFD 0xB4 0x8000 [(0x8000, 0x30), (0x8001, 0xFE)])
      (cpu) = some ⟨0x00, 0x00, 0x00, 0xFD, 0xB4, 0x8000⟩ := by decide

/-- Vector CF12: `50 7F`. -/
theorem test_cf12 :
    outcome (start 0x00 0x00 0x00 0xFD 0x34 0x8000 [(0x8000, 0x50), (0x8001, 0x7F)])
      (cpu) = some ⟨0x00, 0x00, 0x00, 0xFD, 0x34, 0x8081⟩ := by decide

/-- Vector CF14: `70 10`. -/
theorem test_cf14 :
    outcome (start 0x00 0x00 0x00 0xFD 0x74 0x8000 [(0x8000, 0x70), (0x8001, 0x10)])
      (cpu) = some ⟨0x00, 0x00, 0x00, 0xFD, 0x74, 0x8012⟩ := by decide

/-- Vector CF16: `90 80`. -/
theorem test_cf16 :
    outcome (start 0x00 0x00 0x00 0xFD 0x34 0x8000 [(0x8000, 0x90), (0x8001, 0x80)])
      (cpu) = some ⟨0x00, 0x00, 0x00, 0xFD, 0x34, 0x7F82⟩ := by decide

/-- Vector CF18: `B0 02`. -/
theorem test_cf18 :
    outcome (start 0x00 0x00 0x00 0xFD 0x35 0x8000 [(0x8000, 0xB0), (0x8001, 0x02)])
      (cpu) = some ⟨0x00, 0x00, 0x00, 0xFD, 0x35, 0x8004⟩ := by decide

/-- Vector CF21: `D0 FA`. -/
theorem test_cf21 :
    outcome (start 0x00 0x00 0x00 0xFD 0x36 0x800B [(0x800B, 0xD0), (0x800C, 0xFA)])
      (cpu) = some ⟨0x00, 0x00, 0x00, 0xFD, 0x36, 0x800D⟩ := by decide

/-- Vector CF22: `F0 7F`. -/
theorem test_cf22 :
    outcome (start 0x00 0x00 0x00 0xFD 0x36 0x8000 [(0x8000, 0xF0), (0x8001, 0x7F)])
      (cpu) = some ⟨0x00, 0x00, 0x00, 0xFD, 0x36, 0x8081⟩ := by decide

/-- Vector CF24: `80 FC`. -/
theorem test_cf24 :
    outcome (start 0x00 0x00 0x00 0xFD 0xFF 0x8010 [(0x8010, 0x80), (0x8011, 0xFC)])
      (cpu) = some ⟨0x00, 0x00, 0x00, 0xFD, 0xFF, 0x800E⟩ := by decide

/-- Vector CF26: `3F 10 05`. -/
theorem test_cf26 :
    outcome (start 0x00 0x00 0x00 0xFD 0x34 0x8000 [(0x0010, 0xF7), (0x8000, 0x3F), (0x8001, 0x10), (0x8002, 0x05)])
      (cpu) = some ⟨0x00, 0x00, 0x00, 0xFD, 0x34, 0x8008⟩ := by decide

/-- Vector CF29: `FF 10 FD`. -/
theorem test_cf29 :
    outcome (start 0x00 0x00 0x00 0xFD 0x34 0x8000 [(0x0010, 0x80), (0x8000, 0xFF), (0x8001, 0x10), (0x8002, 0xFD)])
      (cpu) = some ⟨0x00, 0x00, 0x00, 0xFD, 0x34, 0x8000⟩ := by decide

/-- Vector CF31: `EA`. -/
theorem test_cf31 :
    outcome (start 0x01 0x02 0x03 0xFD 0xF7 0x8000 [(0x8000, 0xEA)])
      (cpu) = some ⟨0x01, 0x02, 0x03, 0xFD, 0xF7, 0x8001⟩ := by decide

/-- Vector CF36: `5C 00 40`. -/
theorem test_cf36 :
    outcome (start 0x00 0x00 0x00 0xFD 0x34 0x8000 [(0x8000, 0x5C), (0x8002, 0x40)])
      (cpu) = some ⟨0x00, 0x00, 0x00, 0xFD, 0x34, 0x8003⟩ := by decide

/-- Vector SY1: `00 EA`. -/
theorem test_sy1 :
    outcome (start 0x00 0x00 0x00 0xFD 0x34 0x8008 [(0x8009, 0xEA), (0xFFFF, 0x90)])
      (cpuAnd 0x01FD) = some (⟨0x00, 0x00, 0x00, 0xFA, 0x34, 0x9000⟩, 0x80) := by decide

/-- Vector SY5: `40`. -/
theorem test_sy5 :
    outcome (start 0x00 0x00 0x00 0xFA 0x24 0x9000 [(0x01FB, 0xDF), (0x01FD, 0x02), (0x9000, 0x40)])
      (cpu) = some ⟨0x00, 0x00, 0x00, 0xFD, 0xEF, 0x0200⟩ := by decide

/-- Vector SY7: `CB`. -/
theorem test_sy7 :
    outcome (start 0x00 0x00 0x00 0xFD 0x20 0x8000 [(0x8000, 0xCB)])
      (cpuAndStops) = some (⟨0x00, 0x00, 0x00, 0xFD, 0x20, 0x8001⟩, true, false, 2) := by decide

/-- Vector SY8: `DB`. -/
theorem test_sy8 :
    outcome (start 0x00 0x00 0x00 0xFD 0x34 0x8000 [(0x8000, 0xDB)])
      (cpuAndStops) = some (⟨0x00, 0x00, 0x00, 0xFD, 0x34, 0x8001⟩, false, true, 2) := by decide

/-- Decimal vectors BD1, BD3 and BD5: A, C, N, Z, V. -/
theorem test_adc_decimal :
    let look := fun (a : Byte) (c : Bool) (m : Byte) =>
      let s := ((start a 0 0 0xFD 0x3C 0x8000 []).setFlag .c c)
      let t := ({ s with config := { defaultConfig with decimalMode := .bcd } } : State).addToA m
      (t.a, t.flag .c, t.flag .n, t.flag .z, t.flag .v)
    look 0x19 false 0x01 = (0x20, false, false, false, false) ∧ look 0x58 true 0x46 = (0x05, true, true, false, true) ∧
      look 0x50 false 0x50 = (0x00, true, true, false, true) := by decide

/-- Decimal vectors BD9, BD10 and BD13. -/
theorem test_sbc_decimal :
    let look := fun (a : Byte) (c : Bool) (m : Byte) =>
      let s := ((start a 0 0 0xFD 0x3C 0x8000 []).setFlag .c c)
      let t := ({ s with config := { defaultConfig with decimalMode := .bcd } } : State).subFromA m
      (t.a, t.flag .c, t.flag .n, t.flag .z, t.flag .v)
    look 0x20 true 0x01 = (0x19, true, false, false, false) ∧ look 0x00 true 0x01 = (0x99, false, true, false, false) ∧
      look 0x32 false 0x02 = (0x29, true, false, false, false) := by decide

/-- `base_cycles` (00_scope.md R2): an entry replaces the count of the map, but for BRK; CF36's 8 cycles by default. -/
theorem test_base_cycles :
    let c := { defaultConfig with baseCycles := [(0xEA, 3), (0x00, 1)] }
    cyclesOf c 0xEA = 4 ∧ cyclesOf c 0x00 = 7 ∧ cyclesOf c 0xA9 = 2 ∧ cyclesOf defaultConfig 0x5C = 8 := by decide

/-! ## Interrupts and reset -/

/-- Vector IV1: the IRQ sequence, its pushed P and its residual cycles. -/
theorem test_irq_entry :
    outcome { start 0 0 0 0xFD 0x21 0x8005 [(0xFFFF, 0x90)] with irqPending := true }
      (fun t => (cpuAndStops t, t.irqPending, t.byteAt 0x01FD, t.byteAt 0x01FC, t.byteAt 0x01FB)) =
    some ((⟨0x00, 0x00, 0x00, 0xFA, 0x25, 0x9000⟩, false, false, 6), false, 0x80, 0x05, 0x21) := by decide

/-- Vector IV2: an IRQ with I = 1 stays latched and the instruction executes. -/
theorem test_irq_masked :
    outcome { start 0 0 0 0xFD 0x24 0x8000 [(0x8000, 0xEA)] with irqPending := true } (fun t => (t.irqPending, t.pc)) =
    some (true, 0x8001) := by decide

/-- Vector IV5: the NMI ignores I. -/
theorem test_nmi_entry :
    outcome { start 0 0 0 0xFD 0x24 0x8000 [(0xFFFB, 0x91)] with nmiPending := true }
      (fun t => (cpu t, t.byteAt 0x01FB)) = some (⟨0x00, 0x00, 0x00, 0xFA, 0x24, 0x9100⟩, 0x24) := by decide

/-- Vector IV4: RESET comes first, and the other requests are lost. -/
theorem test_reset_first :
    outcome { start 5 6 7 0xFD 0x20 0x8000 [(0xFFFD, 0x80)] with resetPending := true, nmiPending := true, irqPending := true }
      (fun t => (cpuAndStops t, t.resetPending, t.nmiPending, t.irqPending, t.mem.length)) =
    some ((⟨0x00, 0x00, 0x00, 0xFA, 0x34, 0x8000⟩, false, false, 6), false, false, false, 1) := by decide

/-- Vector IV10, its cycle 1: a masked IRQ ends WAI and a held residual cycle is spent. -/
theorem test_wai_wakes_masked :
    outcome { start 0 0 0 0xFD 0x24 0x8001 [] with waiting := true, pendingCycles := 2, irqPending := true } cpuAndStops =
    some (⟨0x00, 0x00, 0x00, 0xFD, 0x24, 0x8001⟩, false, false, 1) := by decide

/-- Vector IV9, its cycle 6: a requested RESET ends STP. -/
theorem test_reset_ends_stp :
    outcome { start 0x55 0 0 0xFD 0x34 0x8001 [(0x8000, 0xDB), (0xFFFD, 0x80)] with halted := true, resetPending := true }
      cpuAndStops = some (⟨0x00, 0x00, 0x00, 0xFA, 0x34, 0x8000⟩, false, false, 6) := by decide

/-- Vector IV9c: while halted an NMI does nothing. -/
theorem test_halted_ignores_nmi :
    outcome { start 0x55 0 0 0xFD 0x34 0x8001 [] with halted := true, nmiPending := true } (fun t => (cpuAndStops t, t.nmiPending)) =
    some ((⟨0x55, 0x00, 0x00, 0xFD, 0x34, 0x8001⟩, false, true, 0), true) := by decide

/-- Vector RV1: power-on with a vector in ROM, then the immediate reset. -/
theorem test_power_on_reset :
    (match performAll [.powerOn [(0xFFFC, [0x00, 0x80])], .resetImmediate] (start 1 2 3 4 5 6 [(0x0200, 0x77)]) with
      | .ok t => some (cpuAndStops t, t.mem)
      | .error _ => none) = some ((⟨0x00, 0x00, 0x00, 0xFD, 0x34, 0x8000⟩, false, false, 0), [(0xFFFD, 0x80)]) := by decide

/-- Vector IV6: one NMI request for each high-to-low change. -/
theorem test_nmi_line :
    let low := State.reset.setNmiLine false
    low.nmiPending = true ∧ ((low.setNmiPending false).setNmiLine false).nmiPending = false ∧
      (((low.setNmiPending false).setNmiLine true).setNmiLine false).nmiPending = true := by decide

/-! ## Bus and devices -/

/-- Vectors MB3, MB4 and MB12: unmapped addresses fault, the ACIA's when it is absent. -/
theorem test_unmapped :
    busRead 0x4000 State.reset = .error (.outOfRange 0x4000) ∧ busRead 0x4FFF State.reset = .error (.outOfRange 0x4FFF) ∧
    busRead 0x5004 State.reset = .error (.outOfRange 0x5004) ∧ busRead 0x5FFF State.reset = .error (.outOfRange 0x5FFF) ∧
    busRead 0x6010 State.reset = .error (.outOfRange 0x6010) ∧ busRead 0x7FFF State.reset = .error (.outOfRange 0x7FFF) ∧
    busWrite 0x4000 0x00 State.reset = .error (.outOfRange 0x4000) ∧
    busRead 0x5001 { State.reset with config := { defaultConfig with aciaPresent := false } } =
      .error (.outOfRange 0x5001) :=
  ⟨rfl, rfl, rfl, rfl, rfl, rfl, rfl, rfl⟩

/-- Vector MB7: a word read wraps from 0xFFFF to 0x0000. -/
theorem test_readWord_wraps :
    (match readWord 0xFFFF { State.reset with mem := [(0x0000, 0x12), (0xFFFF, 0x34)] } with
      | .ok (w, _) => w == 0x1234
      | _ => false) = true := by decide

/-- Vectors VP4, VP12, VP13 and VP18. -/
theorem test_via_ports :
    let d := (Via.write .ddrb 0x0F Via.powerOn).write .orb 0xA5
    let e := (((Via.write .ddra 0xF0 d).write .ora 0xAB).setPortA 0x5C)
    d.orb = 0x05 ∧ e.ora = 0xAC ∧ (e.read .ora).1 = 0xA0 ∧ (e.read .oraNh).1 = 0xA0 ∧
      ((({ e with orb := 0x3C } : Via).write .ddrb 0xF0).setPortB 0xFF).orb = 0x3F := by decide

/-- Vectors VE2, VE4, VE6, VE15 and VE17. -/
theorem test_via_interrupts :
    let d := Via.write .ier 0xA0 (Via.write .ier 0xC0 Via.powerOn)
    let e := Via.write .ier 0xA0 { Via.powerOn with ifr := 0x60 }
    d.ier = 0x60 ∧ (d.read .ier).1 = 0xE0 ∧ (d.write .ier 0x40).ier = 0x20 ∧ e.ifr = 0xE0 ∧ e.hasIrq = true ∧
      (e.write .ifr 0x20).ifr = 0x40 := by decide

/-- Vectors VT1a to VT1h: timer 1 as a one-shot, its flag and the summary that waits for the next tick. -/
theorem test_via_timer1_oneShot :
    let d := ((Via.write .ier 0xC0 Via.powerOn).write .t1cL 0x03).write .t1cH 0x00
    let e := d.tick.tick.tick
    d.t1c = 0x0003 ∧ d.tick.tick.ifr = 0x00 ∧ e.t1c = 0x0000 ∧ e.ifr = 0xC0 ∧ e.tick = e ∧
      (e.read .t1cL).2.ifr = 0x80 ∧ (e.read .t1cL).2.tick.ifr = 0x00 := by decide

/-- Vectors VT4c, VT4f and VT9: timer 1 in free-run mode. -/
theorem test_via_timer1_freeRun :
    let d := ((Via.write .acr 0x40 Via.powerOn).write .t1cL 0x04).write .t1cH 0x00
    let e := d.tick.tick.tick.tick
    let one := (((Via.write .acr 0x40 Via.powerOn).write .t1cL 0x01).write .t1cH 0x00).tick
    e.t1c = 0x0004 ∧ e.ifr = 0x40 ∧ (e.write .ifr 0x40).tick.tick.tick.ifr = 0x00 ∧
      (e.write .ifr 0x40).tick.tick.tick.tick.ifr = 0x40 ∧ one.t1c = 0x0001 ∧ one.ifr = 0x40 := by decide

/-- Vectors VT5c, VT6a, VT6b and VT7: timer 2, and a timer started at 0. -/
theorem test_via_timer2 :
    let d := ((Via.write .ier 0xA0 Via.powerOn).write .t2cL 0x02).write .t2cH 0x00
    let f := (((Via.write .acr 0x20 Via.powerOn).write .t2cL 0x02).write .t2cH 0x00).tick.tick.tick
    let z := (((Via.write .ier 0xC0 Via.powerOn).write .t1cL 0x00).write .t1cH 0x00).tick
    d.tick.tick.ifr = 0xA0 ∧ d.tick.tick.t2c = 0x0000 ∧ f.t2c = 0x0002 ∧ f.ifr = 0x00 ∧ (f.write .acr 0x00).tick.tick.ifr = 0x20 ∧
      z.ifr = 0x00 ∧ z.t1c = 0x0000 := by decide

/-- Vectors AC10 to AC18 and AC27: transmit, two bytes received and read, programmed reset. -/
theorem test_acia_sequence :
    let d := ((Acia.write defaultConfig .command 0x0B (Acia.powerOn defaultConfig)).write defaultConfig .control 0x1F).write defaultConfig .data 0x48
    let e := (d.supply [0x61, 0x62]).tick 256
    let f := (e.readData.2).readData
    d.txOut = [0x48] ∧ d.status = 0x10 ∧ e.status = 0x18 ∧ e.hasIrq = true ∧ (e.read defaultConfig .status).1 = 0x98 ∧
      e.readData.1 = 0x61 ∧ e.readData.2.status = 0x18 ∧ f.1 = 0x62 ∧ f.2.status = 0x10 ∧ f.2.hasIrq = false ∧
      f.2.readData = (0x00, f.2) ∧ (e.write defaultConfig .status 0xFF).rxFifo = [] ∧ (e.write defaultConfig .status 0xFF).command = 0x00 := by decide

/-- Vectors AC31 to AC34 with a capacity of 2: a full FIFO drops the byte and sets OVRN, which a read leaves. -/
theorem test_acia_overrun :
    let d := ((Acia.powerOn defaultConfig).supply [0x01, 0x02, 0x03]).tick 2
    d.rxFifo = [0x01, 0x02] ∧ d.status = 0x1C ∧ d.readData.2.status = 0x1C ∧
      ((d.readData.2.supply [0xBB]).tick 2).rxFifo = [0x02, 0xBB] := by decide

/-- Vector AC12: the tick that receives a byte raises the line and requests an IRQ; AC15: no second request. -/
theorem test_bus_tick_edge :
    let s := busTick { State.reset with acia := (Acia.powerOn defaultConfig).supply [0x61] }
    s.irqPending = true ∧ s.lastIrqAcia = true ∧ (busTick (s.setIrqPending false)).irqPending = false := by decide

/-! ## Witnesses: the hypotheses of each obligation can be met, each clause at the ends of its range -/

/-- A small machine: RAM and ROM bytes, SP at 0x01FF, the ACIA holding one received byte. -/
def sample : State :=
  { start 0x12 0x34 0x56 0xFF 0x34 0x0200 [(0x0010, 0x77), (0x8000, 0x42)] with
    acia := ((Acia.powerOn defaultConfig).supply [0x61]).tick 256 }

theorem witness_memory_wf : sample.mem.wf ∧ State.reset.mem.wf := by decide

/-- For `DecodeOfEncode`, `CycleCounts`: well-formed instructions at the ends of their operands, 8 cycles, 1 cycle, BRK. -/
theorem witness_wellFormed :
    (Instr.lda (.mem (.aby 0xFFFF))).wellFormed = true ∧ (Instr.bbs7 0xFF 0x00).wellFormed = true ∧
    (Instr.nopReserved (.abs 0x5C 0x0000)).wellFormed = true ∧ (Instr.nopReserved (.abs 0x5C 0x0000)).cycles = 8 ∧
    (Instr.nopReserved (.imp 0xFB)).wellFormed = true ∧ (Instr.nopReserved (.imp 0xFB)).cycles = 1 ∧
    Instr.brk.wellFormed = true := by decide

/-- For `EncodeOfDecode`: bytes that are an encoding, and bytes of a reserved immediate slot. -/
theorem witness_EncodeOfDecode :
    decode [0xAD, 0x34, 0x12, 0xEA] = .ok (.lda (.mem (.abs 0x1234)), [0xEA]) ∧
    decode [0x02, 0xFF] = .ok (.nopReserved (.imm 0x02), []) := ⟨rfl, rfl⟩

/-- For `DecodingIsTotal`: enough bytes, and one too few. -/
theorem witness_DecodingIsTotal :
    (opcodeEntry 0xAD).form.operandBytes ≤ [0x34#8, 0x12].length ∧ [0x34#8].length < (opcodeEntry 0xAD).form.operandBytes ∧
    (opcodeEntry 0xEA).form.operandBytes ≤ ([] : List Byte).length := by decide

/-- For `BusReadRule`, `BusWriteRule` and `AddressMap`: the first and last address of each clause. -/
theorem witness_address_clauses :
    deviceAt defaultConfig 0x6000 = some .via ∧ deviceAt defaultConfig 0x600F = some .via ∧
    deviceAt defaultConfig 0x5000 = some .acia ∧ deviceAt defaultConfig 0x5003 = some .acia ∧
    deviceAt defaultConfig 0x4000 = none ∧ deviceAt defaultConfig 0x5004 = none ∧ deviceAt defaultConfig 0x7FFF = none ∧
    mapped defaultConfig 0x0000 = true ∧ mapped defaultConfig 0x3FFF = true ∧ mapped defaultConfig 0x8000 = true ∧
    mapped defaultConfig 0xFFFF = true ∧ mapped defaultConfig 0x4000 = false ∧ mapped defaultConfig 0x600F = true ∧
    mapped defaultConfig 0x6010 = false ∧ mapped { defaultConfig with aciaPresent := false } 0x5000 = false := by decide

/-- For `ReadSideEffects`: a read of each of the four addresses, and of one without side effect. -/
theorem witness_ReadSideEffects :
    (∃ t, busRead 0x5000 sample = .ok (0x61, t)) ∧ (∃ t, busRead 0x6001 sample = .ok (0x00, t)) ∧
    (∃ t, busRead 0x6004 sample = .ok (0x00, t)) ∧ (∃ t, busRead 0x6008 sample = .ok (0x00, t)) ∧
    (∃ t, busRead 0x8000 sample = .ok (0x42, t)) :=
  ⟨⟨_, rfl⟩, ⟨_, rfl⟩, ⟨_, rfl⟩, ⟨_, rfl⟩, ⟨_, rfl⟩⟩

/-- For `AddressMap`: an unmapped effective address. -/
theorem witness_AddressMap :
    effectiveAddress (.abs 0x4000) sample = .ok (0x4000, sample) ∧ mapped sample.config 0x4000 = false := ⟨rfl, by decide⟩

/-- For `AddressMap`, indirect JMP: the first pointer byte unmapped; the second alone, after RAM and after each device; for
(abs,X) with the sum wrapping. -/
theorem witness_AddressMap_jmp :
    mapped sample.config 0x7FFF = false ∧
    (mapped sample.config 0x3FFF = true ∧ mapped sample.config (BitVec.ofNat 16 ((0x3FFF + 1) % 65536)) = false) ∧
    (mapped sample.config 0x5003 = true ∧ mapped sample.config (BitVec.ofNat 16 ((0x5003 + 1) % 65536)) = false) ∧
    (mapped sample.config 0x600F = true ∧ mapped sample.config (BitVec.ofNat 16 ((0x600F + 1) % 65536)) = false) ∧
    (0xFFFF + ({ sample with x := 0xFF } : State).x.toNat) % 65536 = 0x00FE ∧
    ((0x3FCB#16).toNat + sample.x.toNat) % 65536 = 0x3FFF := by decide

/-- Vector MB8 through JMP: the pointer's second byte is unmapped. -/
theorem test_jmp_unmapped :
    exec (.jmp (.ind 0x3FFF)) sample = .fault (.outOfRange 0x4000) ∧
    exec (.jmp (.iax 0x3FCB)) sample = .fault (.outOfRange 0x4000) ∧
    exec (.jmp (.ind 0x7FFF)) sample = .fault (.outOfRange 0x7FFF) := ⟨rfl, rfl, rfl⟩

/-- For `ReadWordRule` and `Jumps`: the wrap at 0xFFFF, and a device. -/
theorem witness_ReadWordRule :
    mapped sample.config 0xFFFF = true ∧ mapped sample.config (0xFFFF + 1) = true ∧
    mapped sample.config 0x5000 = true ∧ mapped sample.config (0x5000 + 1) = true ∧
    (0xFFF0#16 : Addr).toNat = (0xFFBC + sample.x.toNat) % 65536 := by decide

/-- For `RomImagePlacement`: a byte of the image, one below ROM, one above the image. -/
theorem witness_RomImagePlacement :
    Memory.wf [] ∧ Memory.loadImage [] 0x7FFF [0x01, 0x02] = [(0x8000, 0x02)] ∧
    Memory.loadImage [] 0xFFFF [0x01, 0x02] = [(0xFFFF, 0x01)] := by decide

/-- Two overlapping images: the later one wins where both have a byte, the earlier one stays elsewhere (20_memory.md R72). -/
theorem test_loadImages_overlap :
    Memory.loadImages [] [(0x8000, [0x01, 0x02, 0x03]), (0x8001, [0x0A])] = [(0x8000, 0x01), (0x8001, 0x0A), (0x8002, 0x03)] := by
  decide

/-- For the instructions that read an operand: an immediate byte, the zero page, and a device register. -/
theorem witness_canRead :
    sample.canRead (.imm 0xFF) ∧ sample.canRead (.mem (.zpx 0xFF)) ∧ sample.canRead (.mem (.abs 0x5000)) :=
  ⟨trivial, ⟨_, rfl, by decide⟩, ⟨_, rfl, by decide⟩⟩

/-- For the instructions that write an operand: RAM, ROM and a device register. -/
theorem witness_mapped_operand :
    (effectiveAddress (.zpy 0xFF) sample = .ok (0x0055, sample) ∧ mapped sample.config 0x0055 = true) ∧
    (effectiveAddress (.abs 0xFFFF) sample = .ok (0xFFFF, sample) ∧ mapped sample.config 0xFFFF = true) ∧
    (effectiveAddress (.abs 0x600F) sample = .ok (0x600F, sample) ∧ mapped sample.config 0x600F = true) :=
  ⟨⟨rfl, by decide⟩, ⟨rfl, by decide⟩, ⟨rfl, by decide⟩⟩

/-- For `AdcResult`, `SbcResult`, `SignedOverflowAndComplement`: D set under binary, and D clear under bcd. -/
theorem witness_no_decimal :
    (sample.setFlag .d true).config.decimalMode = .binary ∧
    ({ sample with config := { defaultConfig with decimalMode := .bcd } } : State).flag .d = false := by decide

/-- For `DecimalArithmetic`: decimal mode with valid operands at both ends. -/
theorem witness_DecimalArithmetic :
    let s := ({ sample with config := { defaultConfig with decimalMode := .bcd } } : State).setFlag .d true
    s.canRead (.imm 0x99) ∧ s.config.decimalMode = .bcd ∧ s.flag .d = true ∧ validBcd s.a = true ∧
      validBcd 0x99 = true ∧ validBcd 0x00 = true := ⟨trivial, by decide⟩

/-- For `Writers`: an instruction that completes. -/
theorem witness_Writers : ∃ t, exec (.inc (.mem (.zp 0x10))) sample = .next t := ⟨_, rfl⟩

/-- For `InterruptEntry` and `ReturnFromException`: both vectors. -/
theorem witness_InterruptEntry : (0xFFFA#16 = 0xFFFA ∨ 0xFFFA#16 = 0xFFFE) ∧ (0xFFFE#16 = 0xFFFA ∨ 0xFFFE#16 = 0xFFFE) := by
  decide

/-- A machine at a boundary with nothing to service. -/
def boundary : State := start 0x12 0x34 0x56 0xFF 0x34 0x8000 [(0x8000, 0xAD), (0x8001, 0x34), (0x8002, 0x12)]

theorem boundary_ready : boundary.ready := ⟨rfl, rfl, rfl, rfl, rfl, fun h => by cases h⟩

/-- For `StepRunsDecodedInstruction`: LDA abs in ROM, and the IRQ latched but masked. -/
theorem witness_StepRunsDecodedInstruction :
    boundary.quiet ∧ boundary.ready ∧ (boundary.setIrqPending true).ready ∧
    decode (boundary.bytesAt boundary.pc) = .ok (.lda (.mem (.abs 0x1234)), []) ∧
    ∀ k < (Instr.lda (.mem (.abs 0x1234))).length, isPlain (boundary.pc + BitVec.ofNat 16 k) = true :=
  ⟨rfl, boundary_ready, ⟨rfl, rfl, rfl, rfl, rfl, fun _ => by decide⟩, rfl, by decide⟩

/-- A boundary with PC at `pc` and the given bytes of memory, and NOP in the VIA's register ORA. -/
def boundaryAt (pc : Addr) (mem : Memory) : State :=
  { (boundary.setPc pc).setMem mem with via := { Via.powerOn with ora := 0xEA, ddra := 0xFF } }

/-- For `StepRunsDecodedInstruction`, its other clauses: an opcode in a device register, a skipped byte at an unmapped address,
an unmapped opcode, an unmapped first and second operand byte. -/
theorem witness_fetch :
    (∀ pc mem, (boundaryAt pc mem).quiet ∧ (boundaryAt pc mem).ready) ∧
    (let s := boundaryAt 0x6001 []
     (∃ u, readBytes (1 + operandsRead 0xEA) s.pc s = .ok ([0xEA], u)) ∧ decode ([0xEA] ++ []) = .ok (.nop, [])) ∧
    (let s := boundaryAt 0x3FFF [(0x3FFF, 0x02)]
     (∃ u, readBytes (1 + operandsRead 0x02) s.pc s = .ok ([0x02], u)) ∧
     decode ([0x02] ++ [0x00]) = .ok (.nopReserved (.imm 0x02), [])) ∧
    mapped defaultConfig 0x4000 = false ∧
    (let s := boundaryAt 0x3FFF [(0x3FFF, 0xA9)]
     (∃ u, busRead s.pc s = .ok (0xA9, u)) ∧ 0 < operandsRead 0xA9 ∧ mapped s.config (s.pc + BitVec.ofNat 16 (1 + 0)) = false) ∧
    (let s := boundaryAt 0x3FFE [(0x3FFE, 0xAD)]
     (∃ u, busRead s.pc s = .ok (0xAD, u)) ∧ 1 < operandsRead 0xAD ∧
     (∀ j < 1, mapped s.config (s.pc + BitVec.ofNat 16 (1 + j)) = true) ∧
     mapped s.config (s.pc + BitVec.ofNat 16 (1 + 1)) = false) :=
  ⟨fun _ _ => ⟨rfl, rfl, rfl, rfl, rfl, rfl, fun h => by cases h⟩, ⟨⟨_, rfl⟩, rfl⟩, ⟨⟨_, rfl⟩, rfl⟩, rfl, ⟨⟨_, rfl⟩, by decide⟩,
    ⟨⟨_, rfl⟩, by decide⟩⟩

/-- A fetch from a device register has the read's side effect (20_memory.md R77, 60_exceptions.md R301): NOP read from ORA
clears CA1 and CA2. -/
theorem test_fetch_from_device :
    outcome { boundaryAt 0x6001 [] with via := { (boundaryAt 0x6001 []).via with ifr := 0x03 } }
      (fun t => (t.pc, t.via.ifr, t.pendingCycles)) = some (0x6002, 0x00, 1) := by decide

/-- The skipped byte of a reserved immediate slot is not read (30_encoding.md R127); an operand byte that is read faults at an
unmapped address (20_memory.md R77). -/
theorem test_fetch_unmapped_operand :
    outcome (boundaryAt 0x3FFF [(0x3FFF, 0x02)]) (fun t => t.pc) = some 0x4001 ∧
    step (boundaryAt 0x3FFF [(0x3FFF, 0xA9)]) = .fault (.outOfRange 0x4000) ∧
    step (boundaryAt 0x4000 []) = .fault (.outOfRange 0x4000) := ⟨by decide, rfl, rfl⟩

/-- For `ResidualCycles` and `HaltedCpuIsFrozen`: residual cycles to spend while the host moves a line. -/
theorem witness_residual :
    let s := { boundary with pendingCycles := 3, hostInput := [[.setNmiLine false], [.supplyRx [0x41]]] }
    (s.halted = false ∧ s.waiting = false ∧ 3 ≤ s.pendingCycles ∧ s.hostLeavesCpu) ∧
    ((s.setHalted true).halted = true ∧ (s.setHalted true).resetPending = false ∧ (s.setHalted true).hostLeavesCpu) := by
  refine ⟨⟨rfl, rfl, by decide, ?_⟩, rfl, rfl, ?_⟩ <;>
  · unfold State.hostLeavesCpu
    decide

/-- For `CpuStepOrder`: halted; waiting with nothing pending; residual cycles; a boundary, and a RESET that ends STP. -/
theorem witness_CpuStepOrder :
    (let s := boundary.setHalted true
     s.halted = true ∧ s.resetPending = false) ∧
    (let s := boundary.setWaiting true
     s.halted = false ∧ s.waiting = true ∧ s.anyPending = false) ∧
    (let s := boundary.setPendingCycles 1
     (s.halted = true → s.resetPending = true) ∧ (s.waiting = true → s.anyPending = true) ∧ 0 < s.pendingCycles) ∧
    (let s := (boundary.setHalted true).setResetPending true
     (s.halted = true → s.resetPending = true) ∧ (s.waiting = true → s.anyPending = true) ∧ s.pendingCycles = 0) := by
  decide

/-- For `CpuStepOrder`: host actions due, and none. -/
theorem witness_performDue :
    (∃ u, performDue { boundary with hostInput := [[.requestReset, .setNmiLine false], []] } = .ok u) ∧
    performDue boundary = .ok boundary := ⟨⟨_, rfl⟩, rfl⟩

/-- Two due actions in the order listed (10_state.md R38): a reset after the request clears it, and the step executes BRK from
the empty vector, which pushes P; the other way round the step services the request, which pushes nothing (R342). -/
theorem test_due_actions_in_order :
    outcome { boundary with hostInput := [[.requestReset, .resetImmediate], [.requestReset]] }
      (fun t => (t.sp, t.byteAt 0x01FA, t.hostInput.length)) = some (0xF9, 0x34, 1) ∧
    outcome { boundary with hostInput := [[.resetImmediate, .requestReset]] } (fun t => (t.sp, t.byteAt 0x01FA)) =
      some (0xF9, 0x00) := by
  decide

/-- A waiting and a halted CPU's step still ticks the devices and counts a cycle (00_scope.md R5). -/
theorem test_devices_tick_while_stopped :
    let look := fun (t : State) => (t.via.t1c, t.cycleCount, t.pc)
    let s := { boundary with via := { Via.powerOn with t1c := 5 } }
    outcome (s.setWaiting true) look = some (4, 1, 0x8000) ∧ outcome (s.setHalted true) look = some (4, 1, 0x8000) ∧
      outcome (s.setPendingCycles 2) look = some (4, 1, 0x8000) := by
  decide

/-- For `LatchedIrqStays`: a masked IRQ, residual cycles, an NMI before it, a halted CPU. -/
theorem witness_LatchedIrqStays :
    let s := boundary.setIrqPending true
    let u := s.setFlag .i false
    s.quiet ∧ s.resetPending = false ∧ s.irqPending = true ∧ s.flag .i = true ∧ (∃ t, step s = .next t) ∧
    u.quiet ∧ u.irqPending = true ∧ u.flag .i = false ∧
    (0 < (u.setPendingCycles 2).pendingCycles ∧ ∃ t, step (u.setPendingCycles 2) = .next t) ∧
    ((u.setNmiPending true).nmiPending = true ∧ ∃ t, step (u.setNmiPending true) = .next t) ∧
    ((u.setHalted true).halted = true ∧ ∃ t, step (u.setHalted true) = .next t) :=
  ⟨rfl, rfl, rfl, by decide, ⟨_, rfl⟩, rfl, rfl, by decide, ⟨by decide, _, rfl⟩, ⟨rfl, _, rfl⟩, ⟨rfl, _, rfl⟩⟩

/-- For `ViaTick`, `Timer1FreeRunPeriod`, `OneShotTimers`: timers at 1 and at 0xFFFF, free-run and one-shot, frozen. -/
theorem witness_timers :
    (let d : Via := { Via.powerOn with t1c := 1, t1lL := 1, acr := 0x40 }
     d.t1lH.toNat * 256 + d.t1lL.toNat = 1 ∧ d.t1c.toNat = 1 ∧ d.acr.getLsbD 6 = true) ∧
    (let d : Via := { Via.powerOn with t1c := 0xFFFF, t1lL := 0xFF, t1lH := 0xFF, acr := 0x40 }
     1 ≤ 65535 ∧ d.t1lH.toNat * 256 + d.t1lL.toNat = 65535 ∧ d.t1c.toNat = 65535 ∧ d.acr.getLsbD 6 = true) ∧
    (let d : Via := { Via.powerOn with t1c := 1, t2c := 0xFFFF }
     d.acr.getLsbD 6 = false ∧ 1 ≤ d.t1c.toNat ∧ d.acr.getLsbD 5 = false ∧ 1 ≤ d.t2c.toNat) ∧
    ({ Via.powerOn with acr := 0x20 } : Via).acr.getLsbD 5 = true := by
  decide

/-- For `AciaReceive` and `AciaRegisters`: a full FIFO, an empty one, one byte, two bytes. -/
theorem witness_acia :
    sample.config.aciaPresent = true ∧ ((Acia.powerOn defaultConfig).rxFifo.length ≤ 0) ∧
    ({ Acia.powerOn defaultConfig with rxFifo := [0x01, 0x02], incoming := [0x03] } : Acia).rxFifo.length ≤ 2 ∧
    State.reset.acia.rxFifo = [] ∧ sample.acia.rxFifo = [0x61] ∧
    ({ sample with acia := sample.acia.supply [0x62] |>.tick 256 } : State).acia.rxFifo = [0x61, 0x62] := by decide

/-- For `StepKeepsInvariant`: a machine with the invariant that steps, with a device's line up and a byte in the FIFO. -/
theorem witness_StepKeepsInvariant :
    let s := { boundary with acia := ((Acia.powerOn defaultConfig).supply [0x61]).tick 256, lastIrqAcia := true }
    Inv s ∧ ∃ t, step s = .next t := by
  refine ⟨⟨?_, ?_, ?_, ?_, ?_, ?_, ?_, ?_, ?_, ?_, ?_, ?_⟩, _, rfl⟩ <;> decide

/-- For `StepKeepsRom` and `StoredUAndCycleCount`: a step in which the host raises the reset request. -/
theorem witness_StepKeepsRom :
    let s := { boundary with hostInput := [[.requestReset]] }
    isRom 0x8000 = true ∧ isRom 0xFFFF = true ∧ (∀ h ∈ s.hostInput.headD [], ∀ images, h ≠ .powerOn images) ∧
    s.flag .u = true ∧ ∃ t, step s = .next t := by
  refine ⟨by decide, by decide, fun h hh images => ?_, by decide, _, rfl⟩
  cases List.mem_singleton.1 hh
  simp

/-- For `StoredBUnobservable`: two machines that differ in B and U. -/
theorem witness_StoredBUnobservable :
    boundary ≠ boundary.setP 0x04 ∧ boundary.withoutBU = (boundary.setP 0x04).withoutBU := by decide

/-- For `ResetAndHostActions`: with the ACIA and without it. -/
theorem witness_ResetAndHostActions :
    sample.config.aciaPresent = true ∧
    ({ sample with config := { defaultConfig with aciaPresent := false } } : State).config.aciaPresent = false := ⟨rfl, rfl⟩

/-- For `OnlyUnmappedAccessesFault`: a step that faults. -/
theorem witness_OnlyUnmappedAccessesFault : step (boundary.setPc 0x4000) = .fault (.outOfRange 0x4000) := rfl

end Sys2Proof.Tests
end

section
/-! Obligations O6 and O7: the bus as 20_memory.md R66 and R67 state it. First the routing of reads and writes that the laws of
the bus leave to a proof, then what a completed write changes. -/

namespace Sys2Proof.Machine

/-! ## The routing -/

theorem isPlain_iff {a : Addr} : isPlain a = true ↔ 0x8000 ≤ a.toNat ∨ a.toNat ≤ 0x3FFF := by
  simp only [isPlain, isRam, isRom, Bool.or_eq_true, decide_eq_true_eq]
  exact or_comm

theorem isPlain_eq_false_of_deviceAt {c : Config} {a : Addr} {d : Device} (h : deviceAt c a = some d) : isPlain a = false :=
  Bool.eq_false_iff.2 fun hp => by simp [deviceAt_of_plain c hp] at h

theorem not_ram_of_deviceAt {c : Config} {a : Addr} {d : Device} (h : deviceAt c a = some d) : ¬isRam a = true :=
  fun hr => Bool.eq_false_iff.1 (isPlain_eq_false_of_deviceAt h) (isPlain_of_ram hr)

theorem not_rom_of_deviceAt {c : Config} {a : Addr} {d : Device} (h : deviceAt c a = some d) : ¬isRom a = true :=
  fun hr => Bool.eq_false_iff.1 (isPlain_eq_false_of_deviceAt h) (isPlain_of_rom hr)

/-- Between RAM and ROM only a device answers (20_memory.md R64). -/
theorem mapped_eq_false_of_gap {c : Config} {a : Addr} (hd : deviceAt c a = none) (hlo : 0x3FFF < a.toNat)
    (hhi : a.toNat < 0x8000) : mapped c a = false := by
  have hp : isPlain a = false := Bool.eq_false_iff.2 fun hp => by
    have := isPlain_iff.1 hp
    omega
  simp [mapped, hd, hp]

theorem busRead_via {a : Addr} {s : State} (h : deviceAt s.config a = some .via) :
    busRead a s = .ok ((s.via.read (.ofAddr a)).1, s.setVia (s.via.read (.ofAddr a)).2) := by
  simp [busRead, h]

theorem busRead_acia {a : Addr} {s : State} (h : deviceAt s.config a = some .acia) :
    busRead a s = .ok ((s.acia.read s.config (.ofAddr a)).1, s.setAcia (s.acia.read s.config (.ofAddr a)).2) := by
  simp [busRead, h]

/-- A write to an unmapped address fails and names it (20_memory.md R69). -/
theorem busWrite_unmappedAddr {a : Addr} (v : Byte) {s : State} (h : mapped s.config a = false) :
    busWrite a v s = .error (.outOfRange a) := by
  simp only [mapped, isPlain, Bool.or_eq_false_iff, Option.isSome_eq_false_iff, Option.isNone_iff_eq_none] at h
  obtain ⟨hd, hram, hrom⟩ := h
  simp [busWrite, hd, hram, hrom]

/-! ## What a completed write changes -/

theorem sameDevices_refl (s : State) : SameDevices s s := ⟨rfl, rfl⟩

theorem sameMemory_refl (s : State) : SameMemory s s := fun _ => rfl

theorem byteAt_setMem_write_same {s : State} (hm : s.mem.wf) (a : Addr) (v : Byte) :
    (s.setMem (s.mem.write a.toNat v)).byteAt a = v :=
  Memory.read_write_same hm a.toNat v

theorem byteAt_setMem_write_other {a b : Addr} (h : b ≠ a) (v : Byte) (s : State) :
    (s.setMem (s.mem.write a.toNat v)).byteAt b = s.byteAt b :=
  Memory.read_write_other v (mt BitVec.eq_of_toNat_eq h)

/-- A bus write leaves the registers, flags and latches of the CPU alone. -/
theorem busWrite_cpuFrame {a : Addr} {v : Byte} {s t : State} (h : busWrite a v s = .ok t) (rs : List Reg)
    (fs : List Flag) : CpuFrame rs fs s t := by
  rcases busWrite_cases h with ⟨-, rfl⟩ | ⟨-, rfl⟩ | ⟨-, rfl⟩ | ⟨-, rfl⟩ <;>
    exact ⟨fun r _ => by cases r <;> rfl, fun _ _ => rfl, by constructor <;> rfl⟩

theorem busWrite_pc {a : Addr} {v : Byte} {s t : State} (h : busWrite a v s = .ok t) : t.pc = s.pc := by
  rcases busWrite_cases h with ⟨-, rfl⟩ | ⟨-, rfl⟩ | ⟨-, rfl⟩ | ⟨-, rfl⟩ <;> rfl

/-- Where a byte written over the bus lands: the four ranges exclude each other, so each clause of `WrittenAt` speaks of one of
them (20_memory.md R67). -/
theorem busWrite_writtenAt {a : Addr} {v : Byte} {s t : State} (hm : s.mem.wf) (h : busWrite a v s = .ok t) :
    WrittenAt a v s t := by
  rcases busWrite_cases h with ⟨hd, rfl⟩ | ⟨hd, rfl⟩ | ⟨hrom, rfl⟩ | ⟨hram, rfl⟩
  · exact {
      elsewhere := fun _ _ => rfl
      ram := fun hr => absurd hr (not_ram_of_deviceAt hd)
      rom := fun hr => absurd hr (not_rom_of_deviceAt hd)
      via := fun _ => ⟨rfl, rfl, fun _ => rfl⟩
      acia := fun ha => by simp [hd] at ha }
  · exact {
      elsewhere := fun _ _ => rfl
      ram := fun hr => absurd hr (not_ram_of_deviceAt hd)
      rom := fun hr => absurd hr (not_rom_of_deviceAt hd)
      via := fun hv => by simp [hd] at hv
      acia := fun _ => ⟨rfl, rfl, fun _ => rfl⟩ }
  · exact {
      elsewhere := fun _ _ => rfl
      ram := fun hr => by simp [not_rom_of_ram hr] at hrom
      rom := fun _ => ⟨rfl, sameDevices_refl t⟩
      via := fun hv => absurd hrom (not_rom_of_deviceAt hv)
      acia := fun ha => absurd hrom (not_rom_of_deviceAt ha) }
  · exact {
      elsewhere := fun _ hb => byteAt_setMem_write_other hb v s
      ram := fun _ => ⟨byteAt_setMem_write_same hm a v, rfl, rfl⟩
      rom := fun hr => by simp [not_rom_of_ram hram] at hr
      via := fun hv => absurd hram (not_ram_of_deviceAt hv)
      acia := fun ha => absurd hram (not_ram_of_deviceAt ha) }

/-- A completed bus write changes what R67 says and nothing else. -/
theorem busWrite_writeEffect {a : Addr} {v : Byte} {s t : State} (hm : s.mem.wf) (h : busWrite a v s = .ok t)
    (fs : List Flag) : WriteEffect a v fs s s t :=
  ⟨busWrite_cpuFrame h [] fs, busWrite_pc h, sameMemory_refl s, busWrite_writtenAt hm h⟩

/-- A byte written to RAM is read back (20_memory.md R67, R70). -/
theorem busRead_setMem_write {a : Addr} (h : isRam a = true) {s : State} (hm : s.mem.wf) (v : Byte) :
    busRead a (s.setMem (s.mem.write a.toNat v)) = .ok (v, s.setMem (s.mem.write a.toNat v)) := by
  rw [busRead_plain (isPlain_of_ram h), State.setMem_mem, Memory.read_write_same hm]

/-! ## The obligations -/

/-- Settles O6, by the routing: a device, else RAM or ROM, else the fault. -/
theorem busReadRule : Obligations.BusReadRule := fun _ s =>
  ⟨busRead_via, busRead_acia, fun h => busRead_plain (isPlain_iff.2 h) s,
    fun hd hlo hhi => busRead_unmappedAddr (mapped_eq_false_of_gap hd hlo hhi)⟩

/-- Settles O7, by the effect of a completed write and the routing at RAM, at ROM and between them. -/
theorem busWriteRule : Obligations.BusWriteRule := by
  intro a v s hm
  refine ⟨fun h => ?_, fun h => ?_, fun h => ?_, fun hd hlo hhi => ?_⟩
  · obtain ⟨t, ht⟩ := busWrite_mapped v h
    exact ⟨t, ht, busWrite_writeEffect hm ht []⟩
  · have hram : isRam a = true := decide_eq_true h
    exact ⟨_, busWrite_ram hram v s, busRead_setMem_write hram hm v⟩
  · exact busWrite_rom (decide_eq_true h) v s
  · exact busWrite_unmappedAddr v (mapped_eq_false_of_gap hd hlo hhi)

end Sys2Proof.Machine
end

section
/-! Obligation O12: the stack as 41_transfer_stack.md R156 to R158 state it. A push extends the bytes already `Pushed` by one; a
pull gives the byte `stacked` above SP; what is stacked after a push is what was pushed. -/

namespace Sys2Proof.Machine

/-! ## Pushes -/

theorem stackAddr_ne {p q : Byte} (h : p ≠ q) : stackAddr p ≠ stackAddr q :=
  fun e => h (stackAddr_inj.1 (congrArg BitVec.toNat e))

/-- Fewer than 256 pushes do not come back to a byte already pushed. -/
theorem sub_ofNat_ne {k n : Nat} (sp : Byte) (hk : k < n) (hn : n < 256) :
    sp - BitVec.ofNat 8 k ≠ sp - BitVec.ofNat 8 n := by
  bv_omega

theorem push_keeps_wf {v : Byte} {s t : State} (hm : s.mem.wf) (h : push v s = .ok t) : t.mem.wf := by
  cases (push_eq v s).symm.trans h
  exact Memory.write_wf hm _ _

theorem pushed_nil (s : State) : Pushed [] s s where
  sp := (BitVec.sub_zero s.sp).symm
  byte := fun _ h => absurd h (Nat.not_lt_zero _)
  elsewhere := fun _ _ => rfl
  devices := sameDevices_refl s

/-- One more push extends the pushed bytes, as long as it does not wrap onto the first of them (41_transfer_stack.md R156). -/
theorem Pushed.push {bytes : List Byte} {v : Byte} {s t u : State} (hst : Pushed bytes s t) (hm : t.mem.wf)
    (hlen : bytes.length < 256) (h : push v t = .ok u) : Pushed (bytes ++ [v]) s u := by
  cases (push_eq v t).symm.trans h
  exact {
    sp := by
      show t.sp - 1 = _
      rw [hst.sp, List.length_append, List.length_singleton]
      bv_omega
    byte := fun k hk => by
      rw [List.length_append, List.length_singleton, Nat.lt_succ_iff_lt_or_eq] at hk
      rw [hst.sp]
      rcases hk with hk | rfl
      · have hne := stackAddr_ne (sub_ofNat_ne s.sp hk hlen)
        rw [List.getElem_append_left hk, ← hst.byte k hk]
        exact byteAt_setMem_write_other hne v t
      · rw [List.getElem_concat_length rfl]
        exact byteAt_setMem_write_same hm _ v
    elsewhere := fun b hb => by
      have hlast : b ≠ stackAddr t.sp := hst.sp ▸ hb bytes.length (by simp)
      have hbefore := hst.elsewhere b fun k hk => hb k (List.length_append ▸ Nat.lt_add_right 1 hk)
      exact (byteAt_setMem_write_other hlast v t).trans hbefore
    devices := hst.devices }

/-- What `Push(v)` does (41_transfer_stack.md R156). -/
theorem push_pushed (v : Byte) {s : State} (hm : s.mem.wf) : ∃ t, push v s = .ok t ∧ Pushed [v] s t :=
  ⟨_, push_eq v s, (pushed_nil s).push hm (by simp) (push_eq v s)⟩

/-- What `PushWord(w)` does: the high byte is pushed first (41_transfer_stack.md R158). -/
theorem pushWord_pushed (w : Addr) {s : State} (hm : s.mem.wf) :
    ∃ t, pushWord w s = .ok t ∧ Pushed [hiByte w, loByte w] s t := by
  obtain ⟨u, hu, hsu⟩ := push_pushed (hiByte w) hm
  refine ⟨_, ?_, hsu.push (push_keeps_wf hm hu) (by simp) (push_eq (loByte w) u)⟩
  rw [pushWord, hu]
  exact push_eq (loByte w) u

/-! ## Pulls -/

/-- What `Pull()` does (41_transfer_stack.md R157). -/
theorem pull_stacked (s : State) : pull s = .ok (s.stacked 1, s.setSp (s.sp + 1)) := pull_eq s

/-- What `PullWord()` does: the low byte is pulled first (41_transfer_stack.md R158). -/
theorem pullWord_stacked (s : State) :
    pullWord s = .ok (wordOf (s.stacked 2) (s.stacked 1), s.setSp (s.sp + 2)) := by
  have h : s.sp + 1 + 1 = s.sp + 2 := BitVec.add_assoc s.sp 1 1
  rw [pullWord_eq, h]
  rfl

/-- The bytes pushed are stacked in the reverse order. -/
theorem Pushed.stacked {bytes : List Byte} {s t : State} (hst : Pushed bytes s t) {k : Nat} (hk : k < bytes.length) :
    t.stacked (bytes.length - k) = bytes[k] := by
  have hsp : t.sp + BitVec.ofNat 8 (bytes.length - k) = s.sp - BitVec.ofNat 8 k := by
    rw [hst.sp]
    bv_omega
  rw [State.stacked, hsp, hst.byte k hk]

/-- A pull after one push gives back the byte and SP (41_transfer_stack.md R157). -/
theorem Pushed.pull {v : Byte} {s t : State} (hst : Pushed [v] s t) : ∃ u, pull t = .ok (v, u) ∧ u.sp = s.sp := by
  have hv : t.stacked 1 = v := hst.stacked (k := 0) (by simp)
  have hsp : t.sp + 1 = s.sp := by
    rw [hst.sp]
    exact BitVec.sub_add_cancel s.sp 1
  exact ⟨t.setSp (t.sp + 1), by rw [pull_stacked, hv], hsp⟩

/-- A word pull after a word push gives back the word and SP (41_transfer_stack.md R158). -/
theorem Pushed.pullWord {w : Addr} {s t : State} (hst : Pushed [hiByte w, loByte w] s t) :
    ∃ u, pullWord t = .ok (w, u) ∧ u.sp = s.sp := by
  have hhi : t.stacked 2 = hiByte w := hst.stacked (k := 0) (by simp)
  have hlo : t.stacked 1 = loByte w := hst.stacked (k := 1) (by simp)
  have hsp : t.sp + 2 = s.sp := by
    rw [hst.sp]
    exact BitVec.sub_add_cancel s.sp 2
  exact ⟨t.setSp (t.sp + 2), by rw [pullWord_stacked, hhi, hlo, wordOf_bytes], hsp⟩

/-! ## The obligation -/

/-- Settles O12: each push by the bytes it leaves `Pushed`, each pull by the bytes `stacked`. -/
theorem stackPrimitives : Obligations.StackPrimitives := by
  intro v w s hm
  obtain ⟨t, ht, hst⟩ := push_pushed v hm
  obtain ⟨tw, htw, hstw⟩ := pushWord_pushed w hm
  refine ⟨⟨t, ht, hst, ?_, hst.pull⟩, ⟨_, pull_stacked s, ?_, sameMemory_refl s, sameDevices_refl s⟩,
    ⟨tw, htw, hstw, hstw.pullWord⟩, ⟨_, pullWord_stacked s, rfl⟩⟩
  · rw [hst.sp, List.length_singleton, BitVec.toNat_sub, BitVec.toNat_ofNat, Nat.add_comm]
  · exact BitVec.toNat_add s.sp 1

end Sys2Proof.Machine
end

section
/-! Obligations O46, O47, O48 and O49: the VIA as 60_exceptions.md R300 to R318 state it. First the routing from the bus to one of
the sixteen registers, then what the writes and `DeriveSummary` do bit by bit, then the timer registers and
the tick. -/

namespace Sys2Proof.Machine

/-! ## From the bus to a register -/

/-- The address of a register, 0x6000 and its offset (60_exceptions.md R316). -/
def ViaReg.addr (r : ViaReg) : Addr := 0x6000#16 + BitVec.ofNat 16 r.ctorIdx

theorem ViaReg.ofAddr_addr (r : ViaReg) : ViaReg.ofAddr r.addr = r := by cases r <;> rfl

theorem deviceAt_viaReg (c : Config) (r : ViaReg) : deviceAt c r.addr = some .via := by
  rw [deviceAt_eq]
  exact if_pos (by cases r <;> decide)

/-- A bus read at a register's address is that register's read (60_exceptions.md R316). -/
theorem busRead_viaReg (r : ViaReg) (s : State) :
    busRead r.addr s = .ok ((s.via.read r).1, s.setVia (s.via.read r).2) := by
  rw [busRead_via (deviceAt_viaReg s.config r), ViaReg.ofAddr_addr]

/-- A bus write at a register's address is that register's write (60_exceptions.md R316). -/
theorem busWrite_viaReg (r : ViaReg) (v : Byte) (s : State) :
    busWrite r.addr v s = .ok (s.setVia (s.via.write r v)) := by
  simp [busWrite, deviceAt_viaReg, ViaReg.ofAddr_addr]

/-! ## Masked writes, the summary, the flags and the enables -/

/-- A write through a direction register changes exactly the output bits (60_exceptions.md R300, R301). -/
theorem getLsbD_maskedWrite (old dir v : Byte) (k : Nat) :
    ((old &&& ~~~dir) ||| (v &&& dir)).getLsbD k = if dir.getLsbD k then v.getLsbD k else old.getLsbD k := by
  rw [BitVec.getLsbD_or, BitVec.getLsbD_and, BitVec.getLsbD_and, BitVec.getLsbD_not]
  by_cases hk : k < 8
  · cases dir.getLsbD k <;> simp [hk]
  · simp [BitVec.getLsbD_of_ge _ _ (Nat.le_of_not_lt hk)]

/-- `DeriveSummary` sets bit 7 exactly when a flag it leaves is set and enabled (60_exceptions.md R315). -/
theorem Via.summary_deriveSummary_iff (d : Via) :
    d.deriveSummary.ifr.getLsbD 7 = true ↔
      ∃ k < 7, d.deriveSummary.ifr.getLsbD k = true ∧ d.ier.getLsbD k = true := by
  rw [Via.summary_deriveSummary, decide_eq_true_iff, and_ne_zero_iff]
  refine exists_congr fun k => and_congr_right fun hk => ?_
  rw [d.getLsbD_deriveSummary hk]

/-- A write of IFR clears the flags written as 1 (60_exceptions.md R312). -/
theorem Via.getLsbD_clearIfr_written (v : Byte) (d : Via) {k : Nat} (hk : k < 7) :
    (d.clearIfr (v &&& 0x7F)).ifr.getLsbD k = (d.ifr.getLsbD k && !v.getLsbD k) := by
  have hmask : ∀ k < 7, (0x7F : Byte).getLsbD k = true := by decide
  rw [Via.clearIfr, BitVec.getLsbD_and, BitVec.getLsbD_not, BitVec.getLsbD_and, hmask k hk]
  simp [Nat.lt_succ_of_lt hk]

/-- A write of IER sets or clears the enables written as 1, by its bit 7 (60_exceptions.md R313). -/
theorem getLsbD_writtenEnables (v : Byte) (e : BitVec 7) {k : Nat} (hk : k < 7) :
    (if v.getLsbD 7 then e ||| v.setWidth 7 else e &&& ~~~(v.setWidth 7)).getLsbD k =
      if v.getLsbD k then v.getLsbD 7 else e.getLsbD k := by
  have hv : (v.setWidth 7).getLsbD k = v.getLsbD k := by simp [hk]
  cases v.getLsbD 7 <;> cases h : v.getLsbD k <;> simp [h, hk]

/-- IER is read with bit 7 set (60_exceptions.md R313). -/
theorem getLsbD_readEnables (e : BitVec 7) :
    (e.setWidth 8 ||| 0x80#8).getLsbD 7 = true ∧ ∀ k < 7, (e.setWidth 8 ||| 0x80#8).getLsbD k = e.getLsbD k := by
  have hbit : (0x80#8).getLsbD 7 = true ∧ ∀ k < 7, (0x80#8).getLsbD k = false := by decide
  refine ⟨by rw [BitVec.getLsbD_or, hbit.1, Bool.or_true], fun k hk => ?_⟩
  rw [BitVec.getLsbD_or, hbit.2 k hk, Bool.or_false, BitVec.getLsbD_setWidth]
  simp [Nat.lt_succ_of_lt hk]

/-! ## The timer registers -/

/-- The word a timer write loads, as the formula of 60_exceptions.md R304 gives it. -/
theorem wordOf_eq_ofNat (hi lo : Byte) : wordOf hi lo = BitVec.ofNat 16 (hi.toNat * 256 + lo.toNat) := by
  rw [← toNat_wordOf, BitVec.ofNat_toNat, BitVec.setWidth_eq]

/-- No read returns a latch of timer 2 (60_exceptions.md R308). -/
theorem Via.read_t2Latches (r : ViaReg) (l h : Byte) (d : Via) :
    (Via.read r { d with t2lL := l, t2lH := h }).1 = (d.read r).1 := by
  cases r <;> rfl

/-! ## The tick -/

/-- What a tick leaves alone: all but the two counters and IFR (60_exceptions.md R318). -/
theorem Via.tick_frame (d : Via) : d.tick = { d with t1c := d.tick.t1c, t2c := d.tick.t2c, ifr := d.tick.ifr } := by
  obtain ⟨-, -, hframe₁⟩ := d.tickT1_spec
  obtain ⟨-, -, hframe₂⟩ := d.tickT1.tickT2_spec
  obtain ⟨c₁, f₁, h₁⟩ : ∃ c f, d.tickT1 = { d with t1c := c, ifr := f } := ⟨_, _, hframe₁⟩
  obtain ⟨c₂, f₂, h₂⟩ : ∃ c f, d.tickT1.tickT2 = { d.tickT1 with t2c := c, ifr := f } := ⟨_, _, hframe₂⟩
  rw [Via.tick, h₂, h₁]
  rfl

/-- The tick's flags before the summary: each timer sets its own when its counter was 1 (60_exceptions.md R318). -/
theorem Via.getLsbD_tick (d : Via) {k : Nat} (hk : k < 7) :
    d.tick.ifr.getLsbD k = (d.ifr.getLsbD k || (decide (k = 6) && decide (d.t1c.toNat = 1)) ||
      (decide (k = 5) && (decide (d.t2c.toNat = 1) && !d.acr.getLsbD 5))) := by
  obtain ⟨-, hflag₁, hframe₁⟩ := d.tickT1_spec
  obtain ⟨-, hflag₂, -⟩ := d.tickT1.tickT2_spec
  rw [Via.tick, Via.getLsbD_deriveSummary _ hk, hflag₂ k hk, hflag₁ k hk, hframe₁]

/-! ## The obligations -/

/-- Settles O46, register by register; the bits a port write changes are those of a masked write. -/
theorem viaPorts : Obligations.ViaPorts := fun v s =>
  ⟨busRead_viaReg .orb s, busRead_viaReg .ora s, busRead_viaReg .ddrb s, busRead_viaReg .ddra s, busRead_viaReg .oraNh s,
    rfl, rfl, ⟨_, getLsbD_maskedWrite s.via.orb s.via.ddrb v, busWrite_viaReg .orb v s⟩,
    ⟨_, getLsbD_maskedWrite s.via.ora s.via.ddra v, busWrite_viaReg .ora v s, busWrite_viaReg .oraNh v s⟩,
    busWrite_viaReg .ddrb v s, busWrite_viaReg .ddra v s⟩

/-- Settles O47, register by register; a write of a counter's high byte loads the word of the latch. -/
theorem viaTimerAndStorageRegisters : Obligations.ViaTimerAndStorageRegisters := by
  intro v s
  rw [← wordOf_eq_ofNat, ← wordOf_eq_ofNat]
  exact ⟨busRead_viaReg .t1cL s, busRead_viaReg .t1cH s, busRead_viaReg .t1lL s, busRead_viaReg .t1lH s,
    busRead_viaReg .t2cL s, busRead_viaReg .t2cH s, busRead_viaReg .sr s, busRead_viaReg .acr s, busRead_viaReg .pcr s,
    busWrite_viaReg .t1cL v s, busWrite_viaReg .t1cH v s, busWrite_viaReg .t1lL v s, busWrite_viaReg .t1lH v s,
    busWrite_viaReg .t2cL v s, busWrite_viaReg .t2cH v s, busWrite_viaReg .sr v s, busWrite_viaReg .acr v s,
    busWrite_viaReg .pcr v s, fun r l h => s.via.read_t2Latches r l h⟩

/-- Settles O48: what is stored before the summary is derived, then the summary. -/
theorem viaInterruptRegisters : Obligations.ViaInterruptRegisters := by
  intro v s
  refine ⟨busRead_viaReg .ifr s, ⟨_, busRead_viaReg .ier s, getLsbD_readEnables s.via.ier⟩, ?_, ?_⟩
  · exact ⟨_, busWrite_viaReg .ifr v s,
      fun k hk => (Via.getLsbD_deriveSummary _ hk).trans (s.via.getLsbD_clearIfr_written v hk),
      Via.summary_deriveSummary_iff _⟩
  · exact ⟨_, _, busWrite_viaReg .ier v s, fun k hk => getLsbD_writtenEnables v s.via.ier hk,
      fun k hk => Via.getLsbD_deriveSummary _ hk, Via.summary_deriveSummary_iff _⟩

/-- Settles O49: timer 1's part, then timer 2's, which does not see what the first changed, then the summary. -/
theorem viaTick : Obligations.ViaTick := by
  intro d
  obtain ⟨hcount₁, -, hframe₁⟩ := d.tickT1_spec
  obtain ⟨hcount₂, -, hframe₂⟩ := d.tickT1.tickT2_spec
  have ht1c : d.tick.t1c = d.tickT1.t1c := (congrArg Via.t1c hframe₂ :)
  have ht2c : d.tickT1.t2c = d.t2c := (congrArg Via.t2c hframe₁ :)
  have hacr : d.tickT1.acr = d.acr := (congrArg Via.acr hframe₁ :)
  have hier : d.tick.ier = d.ier := (congrArg Via.ier d.tick_frame :)
  rw [ht2c, hacr] at hcount₂
  refine ⟨ht1c ▸ hcount₁, hcount₂, ?_, ?_, fun k hk => ?_, hier ▸ Via.summary_deriveSummary_iff _, d.tick_frame⟩
  · rw [d.getLsbD_tick (by decide)]
    simp
  · rw [d.getLsbD_tick (by decide)]
    simp
  · rw [d.getLsbD_tick (by omega)]
    simp [show k ≠ 5 by omega, show k ≠ 6 by omega]

end Sys2Proof.Machine
end

section
/-! Obligation O52: the ACIA's receive side as 60_exceptions.md R321, R329 and R330 state it. The bytes a tick takes are received
one by one; received together they fill the FIFO up to the capacity, and the rest sets OVRN. -/

namespace Sys2Proof.Machine

/-! ## From the bus to the data register -/

theorem deviceAt_acia {c : Config} (hc : c.aciaPresent = true) {a : Addr} (ha : 0x5000 ≤ a.toNat ∧ a.toNat ≤ 0x5003) :
    deviceAt c a = some .acia := by
  rw [deviceAt_eq, if_neg (by omega), if_pos ⟨hc, ha⟩]

/-- A bus read at 0x5000 is a read of the data register (60_exceptions.md R320, R321). -/
theorem busRead_aciaData {s : State} (hc : s.config.aciaPresent = true) :
    busRead 0x5000 s = .ok (s.acia.readData.1, s.setAcia s.acia.readData.2) :=
  busRead_acia (deviceAt_acia hc (by decide))

theorem Acia.readData_nil {d : Acia} (h : d.rxFifo = []) : d.readData = (0x00, d) := by simp [Acia.readData, h]

theorem Acia.readData_cons {d : Acia} {b : Byte} {rest : List Byte} (h : d.rxFifo = b :: rest) :
    d.readData =
      (b, { d with rxFifo := rest, status := if rest = [] then d.status &&& 0xF7 else d.status }) := by
  simp [Acia.readData, h]

/-! ## The tick -/

/-- One bit, set under a condition. -/
theorem getLsbD_twoPow_if (c : Prop) [Decidable c] {i : Nat} (hi : i < 8) (k : Nat) :
    (if c then BitVec.twoPow 8 i else 0).getLsbD k = (decide c && decide (k = i)) := by
  by_cases hc : c <;> simp [hc, hi, eq_comm]

/-- Setting a flag once more changes nothing. -/
theorem or_or_if (c : Prop) [Decidable c] (x m : Byte) : (x ||| m ||| if c then m else 0#8) = x ||| m := by
  by_cases hc : c <;> simp [hc, BitVec.or_assoc]

/-- Bytes received one by one: the FIFO takes them in order up to its capacity, and OVRN is set if one did not fit
(60_exceptions.md R329). -/
theorem Acia.foldl_receive {capacity : Nat} (bytes : List Byte) : ∀ {d : Acia}, d.rxFifo.length ≤ capacity →
    bytes.foldl (Acia.receive capacity) d = { d with
      rxFifo := (d.rxFifo ++ bytes).take capacity
      status := d.status ||| if capacity < (d.rxFifo ++ bytes).length then 0x04 else 0 } := by
  induction bytes with
  | nil =>
    intro d hd
    simp [List.take_of_length_le hd, Nat.not_lt.2 hd]
  | cons b bytes ih =>
    intro d hd
    by_cases hroom : d.rxFifo.length < capacity
    · have hb : d.receive capacity b = { d with rxFifo := d.rxFifo ++ [b] } := if_pos hroom
      rw [List.foldl_cons, hb, ih (by simpa using hroom)]
      simp
    · have hb : d.receive capacity b = { d with status := d.status ||| 0x04 } := if_neg hroom
      have hfull : capacity = d.rxFifo.length := by omega
      rw [List.foldl_cons, hb, ih (d := { d with status := d.status ||| 0x04 }) hd]
      simp [hfull, or_or_if]

/-- The tick as a single update (60_exceptions.md R329). -/
theorem Acia.tick_eq {capacity : Nat} {d : Acia} (hd : d.rxFifo.length ≤ capacity) :
    d.tick capacity = { d with
      rxFifo := (d.rxFifo ++ d.incoming).take capacity
      incoming := []
      status := (d.status ||| if capacity < (d.rxFifo ++ d.incoming).length then 0x04 else 0) |||
        if 0 < ((d.rxFifo ++ d.incoming).take capacity).length then 0x08 else 0 } := by
  rw [Acia.tick, Acia.foldl_receive d.incoming hd, Acia.setRdrf]
  cases h : (d.rxFifo ++ d.incoming).take capacity <;> simp

/-- The status after a tick, bit by bit: bit 2 is OVRN, bit 3 is RDRF (60_exceptions.md R329). -/
theorem Acia.getLsbD_tick_status {capacity : Nat} {d : Acia} (hd : d.rxFifo.length ≤ capacity) (k : Nat) :
    (d.tick capacity).status.getLsbD k =
      (d.status.getLsbD k || (decide (capacity < (d.rxFifo ++ d.incoming).length) && decide (k = 2)) ||
        (decide (0 < (d.tick capacity).rxFifo.length) && decide (k = 3))) := by
  have hovrn := getLsbD_twoPow_if (capacity < (d.rxFifo ++ d.incoming).length) (show 2 < 8 by decide) k
  have hrdrf := getLsbD_twoPow_if (0 < ((d.rxFifo ++ d.incoming).take capacity).length) (show 3 < 8 by decide) k
  rw [Acia.tick_eq hd, BitVec.getLsbD_or, BitVec.getLsbD_or]
  exact congrArg₂ _ (congrArg _ hovrn) hrdrf

/-! ## The line -/

/-- The line is up exactly while receive interrupts are enabled and the FIFO is not empty (60_exceptions.md R330). -/
theorem Acia.hasIrq_iff (d : Acia) : d.hasIrq = true ↔ d.command.getLsbD 7 = false ∧ d.rxFifo ≠ [] := by
  simp [Acia.hasIrq]

/-! ## The obligation -/

/-- Settles O52, by the tick as a single update, the two cases of a data read and the line. -/
theorem aciaReceive : Obligations.AciaReceive := by
  intro s
  refine ⟨fun capacity d hd => ?_, fun hc hempty => ?_, fun hc b rest hcons => ?_, s.acia.hasIrq_iff⟩
  · have hbit := Acia.getLsbD_tick_status hd
    refine ⟨?_, ?_, ?_, ?_, fun k h2 h3 => ?_, ?_⟩
    · rw [Acia.tick_eq hd]
    · rw [Acia.tick_eq hd]
    · rw [hbit]
      simp
    · rw [hbit]
      simp
    · rw [hbit]
      simp [h2, h3]
    · rw [Acia.tick_eq hd]
  · rw [busRead_aciaData hc, Acia.readData_nil hempty]
    rfl
  · rw [busRead_aciaData hc, Acia.readData_cons hcons]
    rfl

end Sys2Proof.Machine
end

section
/-! Obligations O1, O2, O3, O4 and O5: decoding and encoding agree, 30_encoding.md R100 to R128. The two are read off different
tables: `encode` off the table by mnemonic (R126), `decode` off the map by opcode (R125). So each table is compared with the
other once, row by row, and the round trips follow. -/

namespace Sys2Proof

open Machine

/-! ## From the table by mnemonic to the map -/

/-- Given these operand bytes, the form builds the instruction (30_encoding.md R101). -/
def OpcodeForm.Builds (f : OpcodeForm) (operands : List Byte) (i : Instr) : Prop :=
  match f, operands with
  | .f1 j, [] => j = i
  | .f2 mk, [b] => mk b = i
  | .f2Skip j, [_] => j = i
  | .f3 mk, [b, c] => mk b c = i
  | _, _ => False

/-- What the map's form builds from the operand bytes, the decoder reads from them. -/
theorem decode_of_builds {op : Byte} {operands : List Byte} {i : Instr} (h : (opcodeEntry op).form.Builds operands i)
    (rest : List Byte) : decode (op :: operands ++ rest) = .ok (i, rest) := by
  unfold OpcodeForm.Builds at h
  split at h
  case h_5 => exact h.elim
  all_goals simp_all [decode]

/-- Whatever the decoder reads, the map's form builds from the bytes it consumes. -/
theorem builds_of_decode {op : Byte} {bytes rest : List Byte} {i : Instr} (h : decode (op :: bytes) = .ok (i, rest)) :
    ∃ operands, bytes = operands ++ rest ∧ (opcodeEntry op).form.Builds operands i := by
  simp only [decode] at h
  split at h
  case h_1 j r hf => cases h; exact ⟨[], rfl, hf ▸ rfl⟩
  case h_2 mk b r hf => cases h; exact ⟨[b], rfl, hf ▸ rfl⟩
  case h_3 j b r hf => cases h; exact ⟨[b], rfl, hf ▸ rfl⟩
  case h_4 mk b c r hf => cases h; exact ⟨[b, c], rfl, hf ▸ rfl⟩
  case h_5 => cases h

theorem OpcodeForm.Builds.length_eq {f : OpcodeForm} {operands : List Byte} {i : Instr} (h : f.Builds operands i) :
    operands.length = f.operandBytes := by
  unfold OpcodeForm.Builds at h
  split at h
  case h_5 => exact h.elim
  all_goals rfl

theorem OpcodeForm.Builds.of_f1 {i j : Instr} {operands : List Byte} (h : (OpcodeForm.f1 j).Builds operands i) : i = j := by
  cases operands with
  | nil => exact h.symm
  | cons => exact h.elim

theorem OpcodeForm.Builds.of_f3 {mk : Byte → Byte → Instr} {i : Instr} {operands : List Byte}
    (h : (OpcodeForm.f3 mk).Builds operands i) : ∃ b c, i = mk b c := by
  unfold OpcodeForm.Builds at h
  split at h
  case h_4 b c hf => cases hf; exact ⟨b, c, h.symm⟩
  all_goals contradiction

/-- The table by mnemonic gives a well-formed instruction an opcode, and the map's form at that opcode builds the instruction
from its operand bytes. -/
def Instr.TablesAgree (i : Instr) : Prop :=
  i.wellFormed = true → ∃ op, i.opcode = some op ∧ (opcodeEntry op).form.Builds i.operands i

theorem Instr.TablesAgree.of_cell {i : Instr} {op : Byte} (ho : i.opcode = some op)
    (hb : (opcodeEntry op).form.Builds i.operands i) : i.TablesAgree :=
  fun _ => ⟨op, ho, hb⟩

/-- A cell of a mode the instruction does not have (30_encoding.md R126). -/
theorem Instr.TablesAgree.of_dash {i : Instr} (h : i.wellFormed = false) : i.TablesAgree :=
  fun hw => by simp [h] at hw

/-- A cell with a 16-bit operand: its bytes are written low first and put together again (30_encoding.md R103). -/
theorem Instr.TablesAgree.of_word {mk : Addr → Instr} {op : Byte} {w : Addr} (ho : (mk w).opcode = some op)
    (hf : (opcodeEntry op).form = .f3 fun l h => mk (wordOf h l)) (hb : (mk w).operands = [loByte w, hiByte w]) :
    (mk w).TablesAgree :=
  .of_cell ho (by rw [hf, hb]; exact congrArg mk (wordOf_bytes w))

/-- A reserved instruction is its own opcode's (30_encoding.md R127). -/
theorem Instr.TablesAgree.of_reserved {r : Reserved}
    (hb : r.wellFormed = true → (opcodeEntry r.opcode).form.Builds r.bytes (.nopReserved r)) :
    (Instr.nopReserved r).TablesAgree :=
  fun hw => ⟨r.opcode, if_pos hw, hb hw⟩

/-! The form of each reserved opcode is that of its slot's class (30_encoding.md R127). -/

theorem form_reservedImp : ∀ op ∈ reservedImp, (opcodeEntry op).form = .f1 (.nopReserved (.imp op)) := by
  simp only [reservedImp, List.cons_append, List.nil_append, List.forall_mem_cons]
  and_intros
  on_goal 31 => exact List.forall_mem_nil _
  all_goals rfl

theorem form_reservedImm : ∀ op ∈ reservedImm, (opcodeEntry op).form = .f2Skip (.nopReserved (.imm op)) := by
  simp only [reservedImm, List.forall_mem_cons]
  exact ⟨rfl, rfl, rfl, rfl, rfl, rfl, rfl, List.forall_mem_nil _⟩

theorem form_reservedZp : ∀ op ∈ reservedZp, (opcodeEntry op).form = .f2 fun z => .nopReserved (.zp op z) := by
  simp only [reservedZp, List.forall_mem_cons]
  exact ⟨rfl, List.forall_mem_nil _⟩

theorem form_reservedZpx : ∀ op ∈ reservedZpx, (opcodeEntry op).form = .f2 fun z => .nopReserved (.zpx op z) := by
  simp only [reservedZpx, List.forall_mem_cons]
  exact ⟨rfl, rfl, rfl, List.forall_mem_nil _⟩

theorem form_reservedAbs :
    ∀ op ∈ reservedAbs, (opcodeEntry op).form = .f3 fun l h => .nopReserved (.abs op (wordOf h l)) := by
  simp only [reservedAbs, List.forall_mem_cons]
  exact ⟨rfl, rfl, rfl, List.forall_mem_nil _⟩

/-- Mode by mode, the table R126 and the map R125 agree. -/
theorem tablesAgree (i : Instr) : i.TablesAgree := by
  cases i
  case lda o | adc o | sbc o | cmp o | and o | ora o | eor o =>
    rcases o with v | m
    · exact .of_cell rfl rfl
    · cases m
      case zpy => exact .of_dash rfl
      case abs w | abx w | aby w => apply Instr.TablesAgree.of_word (w := w) <;> rfl
      all_goals exact .of_cell rfl rfl
  case ldx o =>
    rcases o with v | m
    · exact .of_cell rfl rfl
    · cases m
      case zp | zpy => exact .of_cell rfl rfl
      case abs w | aby w => apply Instr.TablesAgree.of_word (w := w) <;> rfl
      all_goals exact .of_dash rfl
  case ldy o | bit o =>
    rcases o with v | m
    · exact .of_cell rfl rfl
    · cases m
      case zp | zpx => exact .of_cell rfl rfl
      case abs w | abx w => apply Instr.TablesAgree.of_word (w := w) <;> rfl
      all_goals exact .of_dash rfl
  case cpx o | cpy o =>
    rcases o with v | m
    · exact .of_cell rfl rfl
    · cases m
      case zp => exact .of_cell rfl rfl
      case abs w => apply Instr.TablesAgree.of_word (w := w) <;> rfl
      all_goals exact .of_dash rfl
  case sta m =>
    cases m
    case zpy => exact .of_dash rfl
    case abs w | abx w | aby w => apply Instr.TablesAgree.of_word (w := w) <;> rfl
    all_goals exact .of_cell rfl rfl
  case stx m =>
    cases m
    case zp | zpy => exact .of_cell rfl rfl
    case abs w => apply Instr.TablesAgree.of_word (w := w) <;> rfl
    all_goals exact .of_dash rfl
  case sty m =>
    cases m
    case zp | zpx => exact .of_cell rfl rfl
    case abs w => apply Instr.TablesAgree.of_word (w := w) <;> rfl
    all_goals exact .of_dash rfl
  case stz m =>
    cases m
    case zp | zpx => exact .of_cell rfl rfl
    case abs w | abx w => apply Instr.TablesAgree.of_word (w := w) <;> rfl
    all_goals exact .of_dash rfl
  case trb m | tsb m =>
    cases m
    case zp => exact .of_cell rfl rfl
    case abs w => apply Instr.TablesAgree.of_word (w := w) <;> rfl
    all_goals exact .of_dash rfl
  case asl t | lsr t | rol t | ror t | inc t | dec t =>
    rcases t with _ | m
    · exact .of_cell rfl rfl
    · cases m
      case zp | zpx => exact .of_cell rfl rfl
      case abs w | abx w => apply Instr.TablesAgree.of_word (w := w) <;> rfl
      all_goals exact .of_dash rfl
  case jmp j => cases j with | abs w | ind w | iax w => apply Instr.TablesAgree.of_word (w := w) <;> rfl
  case jsr w => apply Instr.TablesAgree.of_word (w := w) <;> rfl
  case nopReserved r =>
    refine .of_reserved fun hw => ?_
    cases r with
    | imp op => exact form_reservedImp op (List.contains_iff_mem.1 hw) ▸ rfl
    | imm op => exact form_reservedImm op (List.contains_iff_mem.1 hw) ▸ rfl
    | zp op z => exact form_reservedZp op (List.contains_iff_mem.1 hw) ▸ rfl
    | zpx op z => exact form_reservedZpx op (List.contains_iff_mem.1 hw) ▸ rfl
    | abs op w =>
      rw [Reserved.opcode, form_reservedAbs op (List.contains_iff_mem.1 hw)]
      exact congrArg (fun w => Instr.nopReserved (.abs op w)) (wordOf_bytes w)
  all_goals exact .of_cell rfl rfl

/-! ## From the map to the table by mnemonic -/

/-- The instruction is well formed and the table by mnemonic gives it this opcode and these operand bytes. -/
def Instr.Encoded (op : Byte) (operands : List Byte) (i : Instr) : Prop :=
  (i.wellFormed, i.opcode, i.operands) = (true, some op, operands)

/-- Whatever operand bytes the form is given, the table by mnemonic encodes the instruction it builds with `op` and these bytes;
a skipped byte is written 0 (30_encoding.md R127). -/
def OpcodeForm.EncodedAs (f : OpcodeForm) (op : Byte) : Prop :=
  match f with
  | .f1 i => i.Encoded op []
  | .f2 mk => ∀ b, (mk b).Encoded op [b]
  | .f2Skip i => i.Encoded op [0] ∧ i = .nopReserved (.imm op)
  | .f3 mk => ∀ b c, (mk b c).Encoded op [b, c]

/-- The cells of a row from the opcode `n` up. -/
def EncodedFrom : Nat → List OpcodeEntry → Prop
  | _, [] => True
  | n, e :: row => e.form.EncodedAs (BitVec.ofNat 8 n) ∧ EncodedFrom (n + 1) row

theorem EncodedFrom.getElem? {row : List OpcodeEntry} : ∀ {n k : Nat} {e : OpcodeEntry}, EncodedFrom n row →
    row[k]? = some e → e.form.EncodedAs (BitVec.ofNat 8 (n + k)) := by
  induction row with
  | nil => simp
  | cons d row ih =>
    rintro n k e ⟨hd, hrow⟩ he
    cases k with
    | zero =>
      cases he
      exact hd
    | succ k => simpa [Nat.add_assoc, Nat.add_comm 1 k] using ih hrow he

theorem bytes_wordOf (hi lo : Byte) : [loByte (wordOf hi lo), hiByte (wordOf hi lo)] = [lo, hi] := by simp

/-- The whole map, compared with the table by mnemonic. -/
theorem rows_encodedFrom : EncodedFrom 0 OpcodeMap.rows.flatten := by
  repeat' first
    | exact trivial
    | refine And.intro ?_ ?_
    | exact rfl
    | exact fun _ => rfl
    | exact fun _ _ => rfl
    | exact fun l h => congrArg (fun bytes => (true, some _, bytes)) (bytes_wordOf h l)

/-- A list of rows of one length, read cell by cell. -/
theorem getElem?_flatten_of_length {α : Type} {n : Nat} (hn : 0 < n) {rows : List (List α)} :
    ∀ k, (∀ row ∈ rows, row.length = n) → rows.flatten[k]? = rows[k / n]?.bind (·[k % n]?) := by
  induction rows with
  | nil => simp
  | cons row rows ih =>
    intro k h
    obtain ⟨hrow, hrows⟩ := List.forall_mem_cons.1 h
    rw [List.flatten_cons]
    by_cases hk : k < n
    · rw [List.getElem?_append_left (hrow ▸ hk), Nat.div_eq_of_lt hk, Nat.mod_eq_of_lt hk]
      rfl
    · have hk := Nat.le_of_not_lt hk
      rw [List.getElem?_append_right (hrow ▸ hk), hrow, ih _ hrows, Nat.div_eq_sub_div hn hk, Nat.mod_eq_sub_mod hk]
      rfl

theorem opcodeEntry_mem_map (op : Byte) : OpcodeMap.rows.flatten[op.toNat]? = some (opcodeEntry op) := by
  have hlen : ∀ row ∈ OpcodeMap.rows, row.length = 16 := by
    simp only [OpcodeMap.rows, List.forall_mem_cons]
    exact ⟨rfl, rfl, rfl, rfl, rfl, rfl, rfl, rfl, rfl, rfl, rfl, rfl, rfl, rfl, rfl, rfl, List.forall_mem_nil _⟩
  have hrow : op.toNat / 16 < OpcodeMap.rows.length := Nat.div_lt_of_lt_mul op.isLt
  have hcell : op.toNat % 16 < OpcodeMap.rows[op.toNat / 16].length := by
    rw [hlen _ (List.getElem_mem hrow)]
    exact Nat.mod_lt _ (by decide)
  rw [getElem?_flatten_of_length (by decide) _ hlen, opcodeEntry]
  simp [hrow, hcell]

/-- Opcode by opcode, the map R125 and the table R126 agree. -/
theorem opcodeEntry_encodedAs (op : Byte) : (opcodeEntry op).form.EncodedAs op := by
  simpa using rows_encodedFrom.getElem? (opcodeEntry_mem_map op)

theorem Instr.Encoded.encode_eq {op : Byte} {operands : List Byte} {i : Instr} (h : i.Encoded op operands) :
    i.wellFormed = true ∧ encode i = op :: operands ∧ i.length = 1 + operands.length := by
  simp only [Instr.Encoded, Prod.mk.injEq] at h
  obtain ⟨hw, ho, hb⟩ := h
  exact ⟨hw, by rw [encode, ho, hb], by rw [Instr.length, hb]⟩

/-- What a cell builds, the table by mnemonic encodes in the bytes it was built from; the skipped byte of a reserved immediate
slot is written 0 (30_encoding.md R127). -/
theorem OpcodeForm.EncodedAs.of_builds {f : OpcodeForm} {op : Byte} {operands : List Byte} {i : Instr}
    (he : f.EncodedAs op) (hb : f.Builds operands i) :
    i.Encoded op operands ∨ (i.Encoded op [0] ∧ ∃ skipped, operands = [skipped] ∧ i = .nopReserved (.imm op)) := by
  unfold OpcodeForm.Builds at hb
  split at hb
  case h_1 => exact .inl (hb ▸ he)
  case h_2 mk b => exact .inl (hb ▸ he b)
  case h_3 j b => exact .inr (hb ▸ ⟨he.1, b, rfl, he.2⟩)
  case h_4 mk b c => exact .inl (hb ▸ he b c)
  case h_5 => exact hb.elim

/-! ## Cycle counts -/

/-- One cycle is the count of the reserved one-byte opcodes alone (30_encoding.md R125, R127). -/
theorem cycles_eq_one_iff (op : Byte) : (opcodeEntry op).cycles = 1 ↔ op ∈ reservedImp := by
  revert op
  decide

/-- Eight cycles are the count of the opcode 0x5C alone (30_encoding.md R125). -/
theorem cycles_eq_eight (op : Byte) : (opcodeEntry op).cycles = 8 → op = 0x5C := by
  revert op
  decide

theorem cycles_of_opcode {i : Instr} {op : Byte} (h : i.opcode = some op) : i.cycles = (opcodeEntry op).cycles := by
  rw [Instr.cycles, h]

/-- BRK's count is no parameter (00_scope.md R2). -/
theorem cyclesOf_brk (c : Config) : cyclesOf c 0x00 = 7 := rfl

/-! ## The obligations -/

/-- Settles O1: the table by mnemonic gives the opcode, and the map's form at that opcode builds the instruction again. -/
theorem decodeOfEncode : Obligations.DecodeOfEncode := by
  intro i rest hw
  obtain ⟨op, ho, hb⟩ := tablesAgree i hw
  rw [encode, ho]
  exact decode_of_builds hb rest

/-- Settles O2: the map's cell at the opcode byte is one the table by mnemonic encodes with that byte. -/
theorem encodeOfDecode : Obligations.EncodeOfDecode := by
  intro bytes rest i hd
  cases bytes with
  | nil => cases hd
  | cons op bytes =>
    obtain ⟨operands, rfl, hb⟩ := builds_of_decode hd
    have hle := operandBytes_le op
    rcases (opcodeEntry_encodedAs op).of_builds hb with he | ⟨he, skipped, rfl, hi⟩
    · obtain ⟨hw, henc, hlen⟩ := he.encode_eq
      have := hb.length_eq
      refine ⟨hw, ?_, by omega, by omega, .inl (by rw [henc]; rfl)⟩
      rw [List.length_cons, List.length_append]
      omega
    · obtain ⟨hw, henc, hlen⟩ := he.encode_eq
      exact ⟨hw, by rw [hlen]; simp; omega, by rw [hlen]; decide, by rw [hlen]; decide, .inr ⟨op, skipped, hi, rfl⟩⟩

/-- Settles O3, form by form and by how many operand bytes are there. -/
theorem decodingIsTotal : Obligations.DecodingIsTotal := by
  intro op operands
  refine ⟨operandBytes_le op, ?_⟩
  simp only [decode]
  cases (opcodeEntry op).form with
  | f1 i => simp [OpcodeForm.operandBytes]
  | f2 mk | f2Skip i => cases operands <;> simp [OpcodeForm.operandBytes]
  | f3 mk => rcases operands with _ | ⟨b, _ | ⟨c, r⟩⟩ <;> simp [OpcodeForm.operandBytes]

/-- Settles O4, by running the decoder. -/
theorem specWordsDecode : Obligations.SpecWordsDecode := ⟨rfl, rfl, rfl, rfl, rfl, rfl, rfl, rfl, rfl, rfl⟩

/-- Settles O5: the counts of the map, and which opcodes have the extreme ones. -/
theorem cycleCounts : Obligations.CycleCounts := by
  intro i hw
  obtain ⟨op, ho, hb⟩ := tablesAgree i hw
  obtain ⟨hlo, hhi⟩ := opcodeEntry_cycles op
  rw [cycles_of_opcode ho]
  refine ⟨hlo, hhi, fun h8 => ?_, ⟨fun h1 => ?_, ?_⟩, ?_, fun opc ho' => ⟨?_, ?_⟩⟩
  · cases cycles_eq_eight op h8
    obtain ⟨l, h, rfl⟩ := OpcodeForm.Builds.of_f3 hb
    exact ⟨_, rfl⟩
  · rw [form_reservedImp op ((cycles_eq_one_iff op).1 h1)] at hb
    exact ⟨op, hb.of_f1⟩
  · rintro ⟨op', rfl⟩
    have hop : (Instr.nopReserved (.imp op')).opcode = some op' := if_pos hw
    cases hop.symm.trans ho
    exact (cycles_eq_one_iff op).2 (List.contains_iff_mem.1 hw)
  · rintro rfl
    cases ho
    rfl
  · cases ho'.symm.trans ho
    exact cyclesOf_default op
  · rintro c rfl
    cases ho'
    exact cyclesOf_brk c

end Sys2Proof
end

section
/-! Obligations O54, O55, O56, O58 and O59: what every step keeps, 10_state.md, 20_memory.md R71, 60_exceptions.md R280 to R283.
A property goes through a step in three parts: the host's due actions, the CPU step, the bus tick. `StepClosed` carries it
through the last two; what a host action can do is said once here. -/

namespace Sys2Proof.Machine

/-! ## The host's actions -/

/-- Everything a host action can do (10_state.md R38). -/
theorem perform_cases {h : HostAction} {s t : State} (e : h.perform s = .ok t) :
    (∃ images, h = .powerOn images ∧ t = State.powerOn s.config images s.hostInput) ∨
    (h = .resetImmediate ∧ resetSequence 0 s = .ok t) ∨
    (h = .requestReset ∧ t = s.setResetPending true) ∨
    (h.leavesCpu = true ∧ ∃ p l v c, t = (((s.setNmiPending p).setNmiLastHigh l).setVia v).setAcia c) := by
  cases h with
  | powerOn images => cases e; exact .inl ⟨images, rfl, rfl⟩
  | resetImmediate => exact .inr (.inl ⟨rfl, e⟩)
  | requestReset => cases e; exact .inr (.inr (.inl ⟨rfl, rfl⟩))
  | setNmiLine high => cases e; exact .inr (.inr (.inr ⟨rfl, s.nmiPending || (s.nmiLastHigh && !high), high, s.via, s.acia, rfl⟩))
  | setPortAInput v => cases e; exact .inr (.inr (.inr ⟨rfl, s.nmiPending, s.nmiLastHigh, s.via.setPortA v, s.acia, rfl⟩))
  | setPortBInput v => cases e; exact .inr (.inr (.inr ⟨rfl, s.nmiPending, s.nmiLastHigh, s.via.setPortB v, s.acia, rfl⟩))
  | supplyRx bytes =>
    cases e
    split
    · exact .inr (.inr (.inr ⟨rfl, s.nmiPending, s.nmiLastHigh, s.via, _, rfl⟩))
    · exact .inr (.inr (.inr ⟨rfl, s.nmiPending, s.nmiLastHigh, s.via, s.acia, rfl⟩))

/-- What a host action short of a power-on keeps: whatever a RESET sequence keeps and no latch of the CPU, no device is part of. -/
theorem perform_keeps {P : State → Prop} (reset : ∀ s t, resetSequence 0 s = .ok t → P s → P t)
    (request : ∀ s, P s → P (s.setResetPending true))
    (outside : ∀ p l v c s, P s → P ((((s.setNmiPending p).setNmiLastHigh l).setVia v).setAcia c))
    {h : HostAction} (hp : ∀ images, h ≠ .powerOn images) (s t : State) (e : h.perform s = .ok t) (hs : P s) : P t := by
  rcases perform_cases e with ⟨images, hi, -⟩ | ⟨-, e⟩ | ⟨-, rfl⟩ | ⟨-, p, l, v, c, rfl⟩
  · exact absurd hi (hp images)
  · exact reset s t e hs
  · exact request s hs
  · exact outside p l v c s hs

/-- No host action changes the parameters (log 2). -/
theorem performDue_config {s t : State} (e : performDue s = .ok t) : t.config = s.config :=
  performDue_keeps (P := fun u => u.config = s.config) (fun _ _ hs => hs)
    (fun _ _ u v e hu => by
      rcases perform_cases e with ⟨_, _, rfl⟩ | ⟨_, e⟩ | ⟨_, rfl⟩ | ⟨_, p, l, w, c, rfl⟩
      · exact hu
      · cases (resetSequence_eq 0 u).symm.trans e
        exact hu
      · exact hu
      · exact hu) rfl e

/-! ## ROM and stored U -/

/-- No RAM address is a ROM address. -/
theorem ne_of_rom_of_ram {a b : Addr} (ha : isRom a = true) (hb : isRam b = true) : a ≠ b := by
  rintro rfl
  simp [not_rom_of_ram hb] at ha

/-- Nothing in a step changes a ROM byte (20_memory.md R71). -/
theorem stepClosed_rom {a : Addr} (ha : isRom a = true) (v : Byte) : StepClosed fun s => s.byteAt a = v where
  a _ _ hs := hs
  x _ _ hs := hs
  y _ _ hs := hs
  sp _ _ hs := hs
  pc _ _ hs := hs
  flag _ _ _ _ _ hs := hs
  pulled _ _ hs := hs
  read _ _ _ _ e hs := by
    rcases busRead_cases e with ⟨-, -, rfl⟩ | ⟨-, -, rfl⟩ | ⟨-, -, rfl⟩ <;> exact hs
  write _ w s _ e hs := by
    rcases busWrite_cases e with ⟨-, rfl⟩ | ⟨-, rfl⟩ | ⟨-, rfl⟩ | ⟨hram, rfl⟩
    · exact hs
    · exact hs
    · exact hs
    · exact (byteAt_setMem_write_other (ne_of_rom_of_ram ha hram) w s).trans hs
  waiting _ _ hs := hs
  halted _ _ hs := hs
  pendingCycles _ _ hs := hs
  nmiPending _ _ hs := hs
  irqPending _ _ hs := hs
  reset n s _ e hs := by
    cases (resetSequence_eq n s).symm.trans e
    exact hs
  tick s hs := by
    rw [busTick_eq]
    exact hs
  cycleCount _ _ hs := hs

theorem flag_u_setP_statusPulled (v : Byte) (s : State) : (s.setP (statusPulled v)).flag .u = true := by
  show ((v &&& 0xCF) ||| 0x20).getLsbD 5 = true
  rw [BitVec.getLsbD_or, show (0x20 : Byte).getLsbD 5 = true from rfl, Bool.or_true]

/-- Nothing in a step clears stored U (10_state.md R23). -/
theorem stepClosed_storedU : StepClosed fun s => s.flag .u = true where
  a _ _ hs := hs
  x _ _ hs := hs
  y _ _ hs := hs
  sp _ _ hs := hs
  pc _ _ hs := hs
  flag f b s _ hu hs := by rw [State.flag_setFlag, if_neg hu, hs]
  pulled v s _ := flag_u_setP_statusPulled v s
  read _ _ _ _ e hs := by
    rcases busRead_cases e with ⟨-, -, rfl⟩ | ⟨-, -, rfl⟩ | ⟨-, -, rfl⟩ <;> exact hs
  write _ _ _ _ e hs := by
    rcases busWrite_cases e with ⟨-, rfl⟩ | ⟨-, rfl⟩ | ⟨-, rfl⟩ | ⟨-, rfl⟩ <;> exact hs
  waiting _ _ hs := hs
  halted _ _ hs := hs
  pendingCycles _ _ hs := hs
  nmiPending _ _ hs := hs
  irqPending _ _ hs := hs
  reset n s _ e _ := by
    cases (resetSequence_eq n s).symm.trans e
    show (0x34 : Byte).getLsbD 5 = true
    rfl
  tick s hs := by
    rw [busTick_eq]
    exact hs
  cycleCount _ _ hs := hs

/-- What a step closed property needs of the host, short of a power-on. -/
theorem StepClosed.step_keeps {P : State → Prop} (h : StepClosed P) (queue : ∀ v s, P s → P (s.setHostInput v))
    (request : ∀ s, P s → P (s.setResetPending true))
    (outside : ∀ p l v c s, P s → P ((((s.setNmiPending p).setNmiLastHigh l).setVia v).setAcia c)) {s t : State}
    (hp : ∀ a ∈ s.hostInput.headD [], ∀ images, a ≠ .powerOn images) (hs : P s) (e : Machine.step s = .next t) : P t := by
  obtain ⟨u, hu⟩ := performDue_ok s
  exact h.step hu (performDue_keeps queue (fun a ha => perform_keeps (h.reset 0) request outside (hp a ha)) hs hu) e

/-! ## The cycle count -/

/-- No operation of an instruction counts cycles. -/
theorem closed_cycleCount (n : Nat) : Closed fun s => s.cycleCount = n where
  a _ _ hs := hs
  x _ _ hs := hs
  y _ _ hs := hs
  sp _ _ hs := hs
  pc _ _ hs := hs
  flag _ _ _ _ _ hs := hs
  pulled _ _ hs := hs
  read _ _ _ _ e hs := by
    rcases busRead_cases e with ⟨-, -, rfl⟩ | ⟨-, -, rfl⟩ | ⟨-, -, rfl⟩ <;> exact hs
  write _ _ _ _ e hs := by
    rcases busWrite_cases e with ⟨-, rfl⟩ | ⟨-, rfl⟩ | ⟨-, rfl⟩ | ⟨-, rfl⟩ <;> exact hs

theorem vector_nmi : Config.vecNmi = Config.vecNmi ∨ Config.vecNmi = Config.vecReset ∨ Config.vecNmi = Config.vecIrq :=
  .inl rfl

theorem vector_irq : Config.vecIrq = Config.vecNmi ∨ Config.vecIrq = Config.vecReset ∨ Config.vecIrq = Config.vecIrq :=
  .inr (.inr rfl)

/-- Of the latches, counters and parameters the NMI and IRQ sequences set `waiting` and the residual cycles
(60_exceptions.md R266). -/
theorem interruptSequence_control {vec : Addr} (h : vec = Config.vecNmi ∨ vec = Config.vecReset ∨ vec = Config.vecIrq)
    {s t : State} (e : interruptSequence vec s = .ok t) :
    SameControl { s with waiting := false, pendingCycles := 7 } t := by
  rw [interruptSequence_eq h, Except.ok.injEq] at e
  subst e
  constructor <;> rfl

/-- A CPU step counts no cycle; the step around it does (00_scope.md R5). -/
theorem cpuStep_cycleCount {s t : State} (e : cpuStep s = .next t) : t.cycleCount = s.cycleCount := by
  rcases cpuStep_next e with ⟨-, -, rfl⟩ | ⟨-, -, -, rfl⟩ | ⟨-, -, -, rfl⟩ | ⟨-, -, -, u, hu, rfl⟩
  · rfl
  · rfl
  · rfl
  · show u.cycleCount = s.cycleCount
    rcases serviceBoundary_next hu with ⟨-, e⟩ | ⟨-, -, e⟩ | ⟨-, -, -, -, e⟩ | ⟨-, -, -, i, n, v, w, hf, he, rfl⟩
    · cases (resetSequence_eq 7 _).symm.trans e
      rfl
    · exact (interruptSequence_control vector_nmi e).cycleCount
    · exact (interruptSequence_control vector_irq e).cycleCount
    · have hv : v.cycleCount = s.cycleCount := (closed_cycleCount _).fetch (s := s.setWaiting false) rfl hf
      rcases (closed_cycleCount _).exec hv he with hw | ⟨-, rfl⟩ | ⟨-, rfl⟩
      · exact hw
      · exact hv
      · exact hv

/-! ## Faults -/

theorem serviceBoundary_fault {s : State} {f : Fault} (h : serviceBoundary s = .fault f) : Unmapped s.config f := by
  unfold serviceBoundary at h
  split at h
  · simp [resetSequence_eq] at h
  · split at h
    · rw [interruptSequence_eq vector_nmi] at h
      cases h
    · split at h
      · rw [interruptSequence_eq vector_irq] at h
        cases h
      · unfold executeInstruction at h
        split at h
        · next i n u hf =>
          have hc : u.config = s.config := (closed_config _).fetch rfl hf
          exact hc ▸ exec_fault (mapNext_eq_fault.1 h)
        · next hf =>
          cases h
          exact fetch_error hf

theorem serviceBoundary_ne_refused {s : State} {r : Refusal} : serviceBoundary s ≠ .refused r := by
  intro h
  unfold serviceBoundary at h
  split at h
  · exact toOutcome_refused.1 h
  · split at h
    · exact toOutcome_refused.1 h
    · split at h
      · exact toOutcome_refused.1 h
      · unfold executeInstruction at h
        split at h
        · exact exec_ne_refused (mapNext_eq_refused.1 h)
        · cases h

theorem cpuStep_fault {s : State} {f : Fault} (h : cpuStep s = .fault f) : Unmapped s.config f := by
  unfold cpuStep at h
  split at h
  · cases h
  · split at h
    · cases h
    · split at h
      · cases h
      · exact serviceBoundary_fault (s := s.setWaiting false) (mapNext_eq_fault.1 h)

theorem cpuStep_ne_refused {s : State} {r : Refusal} : cpuStep s ≠ .refused r := by
  intro h
  unfold cpuStep at h
  split at h
  · cases h
  · split at h
    · cases h
    · split at h
      · cases h
      · exact serviceBoundary_ne_refused (mapNext_eq_refused.1 h)

/-! ## The invariant: memory and the devices -/

/-- The part of the invariant that every operation keeps; the rest is set up by the bus tick at the end of a step, or concerns
the latches and counters of the CPU. -/
structure MemoryAndDevicesSound (s : State) : Prop where
  powerOnIfr : s.config.viaPowerOn.ifr = 0
  memWf      : s.mem.wf
  memInMap   : s.mem.inMap
  via        : s.via.LowFlagsClear
  acia       : s.acia.Consistent s.config.aciaRxCapacity

theorem lowFlags_iff (x : Byte) : x &&& 0x1F = 0 ↔ ∀ k < 5, x.getLsbD k = false := by
  revert x
  decide

theorem Inv.sound {s : State} (h : Inv s) : MemoryAndDevicesSound s where
  powerOnIfr := h.powerOnIfr
  memWf := h.memWf
  memInMap := h.memInMap
  via := (lowFlags_iff _).1 h.ifrLow
  acia := ⟨h.aciaStatus, h.rdrf, h.rxCapacity⟩

theorem stepClosed_sound : StepClosed MemoryAndDevicesSound where
  a _ _ hs := { hs with }
  x _ _ hs := { hs with }
  y _ _ hs := { hs with }
  sp _ _ hs := { hs with }
  pc _ _ hs := { hs with }
  flag _ _ _ _ _ hs := { hs with }
  pulled _ _ hs := { hs with }
  read _ _ _ _ e hs := by
    rcases busRead_cases e with ⟨-, -, rfl⟩ | ⟨-, -, rfl⟩ | ⟨-, -, rfl⟩
    · exact { hs with via := hs.via.read _ }
    · exact { hs with acia := hs.acia.read _ _ }
    · exact hs
  write _ v _ _ e hs := by
    rcases busWrite_cases e with ⟨-, rfl⟩ | ⟨-, rfl⟩ | ⟨-, rfl⟩ | ⟨hram, rfl⟩
    · exact { hs with via := hs.via.write _ v }
    · exact { hs with acia := hs.acia.write _ _ v }
    · exact hs
    · exact { hs with
        memWf := Memory.write_wf hs.memWf _ v
        memInMap := Memory.write_inMap hs.memInMap (isPlain_of_ram hram) v }
  waiting _ _ hs := { hs with }
  halted _ _ hs := { hs with }
  pendingCycles _ _ hs := { hs with }
  nmiPending _ _ hs := { hs with }
  irqPending _ _ hs := { hs with }
  reset n s _ e hs := by
    cases (resetSequence_eq n s).symm.trans e
    exact { hs with }
  tick s hs := by
    rw [busTick_eq]
    refine { hs with via := hs.via.tick, acia := ?_ }
    dsimp only
    split
    · exact hs.acia.tick
    · exact hs.acia
  cycleCount _ _ hs := { hs with }

theorem Acia.consistent_powerOn (c : Config) (n : Nat) : (Acia.powerOn c).Consistent n :=
  ⟨(by decide : (0x10 : Byte) &&& 0xF3 = 0x10), (by decide : (0x10 : Byte).getLsbD 3 = !([] : List Byte).isEmpty), Nat.zero_le n⟩

/-- A power-on with these parameters is sound (10_state.md R39). -/
theorem sound_powerOn {c : Config} (h : c.viaPowerOn.ifr = 0) (images : List (Addr × List Byte))
    (later : List (List HostAction)) : MemoryAndDevicesSound (State.powerOn c images later) where
  powerOnIfr := h
  memWf := Memory.loadImages_wf images ⟨List.Pairwise.nil, nofun⟩
  memInMap := Memory.loadImages_inMap images nofun
  via k _ := by
    show c.viaPowerOn.ifr.getLsbD k = false
    rw [h]
    exact BitVec.getLsbD_zero
  acia := Acia.consistent_powerOn c _

theorem perform_sound {h : HostAction} {s t : State} (e : h.perform s = .ok t) (hs : MemoryAndDevicesSound s) :
    MemoryAndDevicesSound t := by
  cases h with
  | powerOn images =>
    cases e
    exact sound_powerOn hs.powerOnIfr images _
  | resetImmediate => exact stepClosed_sound.reset 0 s t e hs
  | supplyRx bytes =>
    cases e
    split
    · exact { hs with }
    · exact hs
  | _ =>
    cases e
    exact { hs with }

/-! ## The invariant: the CPU's latches and counters -/

/-- The counts and run state of the invariant (10_state.md R28, 60_exceptions.md R277). -/
structure CountAndRunState (s : State) : Prop where
  pendingCycles : s.pendingCycles ≤ 8
  runState      : ¬(s.halted = true ∧ s.waiting = true)

theorem closed_latches (hl w : Bool) : Closed fun s => s.halted = hl ∧ s.waiting = w where
  a _ _ hs := hs
  x _ _ hs := hs
  y _ _ hs := hs
  sp _ _ hs := hs
  pc _ _ hs := hs
  flag _ _ _ _ _ hs := hs
  pulled _ _ hs := hs
  read _ _ _ _ e hs := by
    rcases busRead_cases e with ⟨-, -, rfl⟩ | ⟨-, -, rfl⟩ | ⟨-, -, rfl⟩ <;> exact hs
  write _ _ _ _ e hs := by
    rcases busWrite_cases e with ⟨-, rfl⟩ | ⟨-, rfl⟩ | ⟨-, rfl⟩ | ⟨-, rfl⟩ <;> exact hs

/-- An instruction boundary of a CPU that does not wait, and is halted only if a reset is pending: the halt ends with the reset,
and an instruction sets at most one of the two latches. -/
theorem serviceBoundary_countAndRunState {s t : State} (hw : s.waiting = false)
    (hh : s.halted = true → s.resetPending = true) (e : serviceBoundary s = .next t) : CountAndRunState t := by
  rcases serviceBoundary_next e with ⟨-, e⟩ | ⟨-, -, e⟩ | ⟨-, -, -, -, e⟩ | ⟨hr, -, -, i, n, u, v, hf, he, rfl⟩
  · cases (resetSequence_eq 7 s).symm.trans e
    exact ⟨by simp, by simp⟩
  · have hc := interruptSequence_control vector_nmi e
    exact ⟨by simp [hc.pendingCycles], by simp [hc.waiting]⟩
  · have hc := interruptSequence_control vector_irq e
    exact ⟨by simp [hc.pendingCycles], by simp [hc.waiting]⟩
  · have hs : s.halted = false ∧ s.waiting = false := ⟨Bool.eq_false_iff.2 fun h => by simp [hh h] at hr, hw⟩
    have hu := (closed_latches false false).fetch hs hf
    refine ⟨(fetch_cycles hf).2, ?_⟩
    rcases (closed_latches false false).exec hu he with hv | ⟨-, rfl⟩ | ⟨-, rfl⟩
    · simp [hv]
    · simp [hu]
    · simp [hu]

theorem cpuStep_countAndRunState {s t : State} (hs : CountAndRunState s) (e : cpuStep s = .next t) :
    CountAndRunState t := by
  obtain ⟨hp, hr⟩ := hs
  have hspend : s.pendingCycles - 1 ≤ 8 := by omega
  rcases cpuStep_next e with ⟨-, -, rfl⟩ | ⟨-, -, -, rfl⟩ | ⟨-, -, -, rfl⟩ | ⟨-, hh, -, u, hu, rfl⟩
  · exact ⟨hspend, hr⟩
  · exact ⟨hp, hr⟩
  · exact ⟨hspend, by simp [spendCycle]⟩
  · obtain ⟨hp', hr'⟩ := serviceBoundary_countAndRunState (s := s.setWaiting false) rfl hh hu
    exact ⟨(Nat.sub_le _ _).trans hp', hr'⟩

theorem perform_countAndRunState {h : HostAction} {s t : State} (e : h.perform s = .ok t) (hs : CountAndRunState s) :
    CountAndRunState t := by
  rcases perform_cases e with ⟨images, -, rfl⟩ | ⟨-, e⟩ | ⟨-, rfl⟩ | ⟨-, p, l, v, c, rfl⟩
  · exact ⟨Nat.zero_le 8, by simp [State.powerOn]⟩
  · cases (resetSequence_eq 0 s).symm.trans e
    exact ⟨Nat.zero_le 8, by simp⟩
  · exact { hs with }
  · exact { hs with }

/-! ## The invariant: what the bus tick sets up -/

/-- The summary as the invariant states it (60_exceptions.md R315). -/
theorem Via.summary_tick (d : Via) : d.tick.ifr.getLsbD 7 = decide (d.tick.ifr.setWidth 7 &&& d.tick.ier ≠ 0) := by
  rw [Bool.eq_iff_iff, decide_eq_true_iff, and_ne_zero_iff]
  exact Via.summary_deriveSummary_iff _

/-- After a bus tick the recorded lines are the lines and the summary is derived, so the invariant holds. -/
theorem inv_busTick {s : State} (hs : MemoryAndDevicesSound s) (hc : CountAndRunState s) : Inv (busTick s) := by
  obtain ⟨hifr, hwf, hmap, hvia, hacia⟩ := stepClosed_sound.tick s hs
  rw [busTick_eq] at *
  exact {
    powerOnIfr := hifr
    memWf := hwf
    memInMap := hmap
    pendingCycles := hc.pendingCycles
    runState := hc.runState
    ifrLow := (lowFlags_iff _).2 hvia
    summary := s.via.summary_tick
    lastIrqVia := rfl
    lastIrqAcia := fun hp => by
      have hp : s.config.aciaPresent = true := hp
      simp [hp]
    aciaStatus := hacia.1
    rdrf := hacia.2.1
    rxCapacity := hacia.2.2 }

/-! ## The obligations -/

/-- Settles O54: the host's actions and the CPU step keep memory, the devices, the count and the run state; the bus tick then sets
up the rest of the invariant. -/
theorem stepKeepsInvariant : Obligations.StepKeepsInvariant := by
  intro s t hs e
  obtain ⟨u, v, hu, hv, rfl⟩ := step_next e
  have hsound : MemoryAndDevicesSound v :=
    stepClosed_sound.cpu
      (performDue_keeps (fun _ _ hs => { hs with }) (fun _ _ _ _ e hs => perform_sound e hs) hs.sound hu) hv
  have hcount : CountAndRunState v :=
    cpuStep_countAndRunState
      (performDue_keeps (fun _ _ hs => { hs with }) (fun _ _ _ _ e hs => perform_countAndRunState e hs)
        ⟨hs.pendingCycles, hs.runState⟩ hu) hv
  exact { inv_busTick hsound hcount with }

/-- Settles O55, by evaluation: the state after reset is a concrete one. -/
theorem resetMeetsInvariant : Obligations.ResetMeetsInvariant := by
  refine ⟨?_, rfl⟩
  constructor <;> decide

/-- Settles O56: a ROM byte goes unchanged through the host's actions, the CPU step and the bus tick. -/
theorem stepKeepsRom : Obligations.StepKeepsRom := fun _ _ _ ha hp e =>
  (stepClosed_rom ha _).step_keeps (fun _ _ hs => hs) (fun _ hs => hs) (fun _ _ _ _ _ hs => hs) hp rfl e

/-- Settles O58: nothing in a step clears stored U, and the step's one cycle is counted at its end. -/
theorem storedUAndCycleCount : Obligations.StoredUAndCycleCount := by
  intro s t hp e
  refine ⟨fun hs => stepClosed_storedU.step_keeps (fun _ _ hs => hs) (fun _ hs => hs) (fun _ _ _ _ _ hs => hs) hp hs e, ?_⟩
  obtain ⟨u, v, hu, hv, rfl⟩ := step_next e
  have hcount : u.cycleCount = s.cycleCount :=
    performDue_keeps (P := fun w => w.cycleCount = s.cycleCount) (fun _ _ hs => hs)
      (fun a ha => perform_keeps
        (fun s t e hs => by
          cases (resetSequence_eq 0 s).symm.trans e
          exact hs)
        (fun _ hs => hs) (fun _ _ _ _ _ hs => hs) (hp a ha)) rfl hu
  show v.cycleCount + 1 = s.cycleCount + 1
  rw [cpuStep_cycleCount hv, hcount]

/-- Settles O59: the host's actions neither fail nor change the parameters, and the CPU step faults only on an access to an
unmapped address. -/
theorem onlyUnmappedAccessesFault : Obligations.OnlyUnmappedAccessesFault := by
  intro s
  obtain ⟨u, hu⟩ := performDue_ok s
  rw [step_eq hu, ← performDue_config hu]
  exact ⟨fun _ h => cpuStep_ne_refused (mapNext_eq_refused.1 h), fun _ h => cpuStep_fault (mapNext_eq_fault.1 h)⟩

end Sys2Proof.Machine
end

section
/-! Obligation O57: stored B and U cannot be observed, 10_state.md R23. Two machines are alike when they differ in B and U alone;
every operation takes alike machines to alike machines with the same value, or to the same fault. The relation is carried through
the operations in the order they are built from each other. -/

namespace Sys2Proof.Machine

/-! ## The relation -/

/-- The machines differ in the stored bits B and U alone. -/
def Alike (s t : State) : Prop := s.withoutBU = t.withoutBU

/-- Both results are the same fault, or both are values that are related. -/
def SameFaultOr {α : Type} (R : α → α → Prop) : Except Fault α → Except Fault α → Prop
  | .ok x, .ok y => R x y
  | .error f, .error g => f = g
  | _, _ => False

/-- The same value, and machines that are alike. -/
def AlikeWith {α : Type} (p q : α × State) : Prop := p.1 = q.1 ∧ Alike p.2 q.2

/-- The same fault or refusal, or machines that are alike. -/
def AlikeOutcomes (o p : Host.Outcome State Fault Refusal) : Prop := mapNext State.withoutBU o = mapNext State.withoutBU p

theorem SameFaultOr.bind {α β : Type} {R : α → α → Prop} {S : β → β → Prop} {r r' : Except Fault α}
    {k k' : α → Except Fault β} (h : SameFaultOr R r r') (hk : ∀ x y, R x y → SameFaultOr S (k x) (k' y)) :
    SameFaultOr S (r >>= k) (r' >>= k') := by
  cases r with
  | ok x =>
    cases r' with
    | ok y => exact hk x y h
    | error g => exact h.elim
  | error f =>
    cases r' with
    | ok y => exact h.elim
    | error g => exact h

theorem SameFaultOr.toOutcome {r r' : Except Fault State} (h : SameFaultOr Alike r r') :
    AlikeOutcomes (toOutcome r) (Machine.toOutcome r') := by
  cases r with
  | ok x =>
    cases r' with
    | ok y => exact congrArg Host.Outcome.next h
    | error g => exact h.elim
  | error f =>
    cases r' with
    | ok y => exact h.elim
    | error g => exact congrArg Host.Outcome.fault h

theorem AlikeOutcomes.mapNext {o p : Host.Outcome State Fault Refusal} {f : State → State} (h : AlikeOutcomes o p)
    (hf : ∀ s t, Alike s t → Alike (f s) (f t)) : AlikeOutcomes (Machine.mapNext f o) (Machine.mapNext f p) := by
  cases o with
  | next s =>
    cases p with
    | next t => exact congrArg Host.Outcome.next (hf s t (Host.Outcome.next.inj h))
    | fault | refused => cases h
  | fault | refused =>
    cases p with
    | next => cases h
    | fault | refused => exact h

/-- A bit set or cleared in two bytes that agree under a mask. -/
theorem setBit_and_congr {x y m : Byte} (h : x &&& m = y &&& m) (n : Nat) (b : Bool) :
    setBit x n b &&& m = setBit y n b &&& m := by
  cases b with
  | true =>
    show (x ||| bitMask n) &&& m = (y ||| bitMask n) &&& m
    rw [BitVec.and_or_distrib_right, BitVec.and_or_distrib_right, h]
  | false =>
    have hswap : ∀ z : Byte, z &&& ~~~bitMask n &&& m = z &&& m &&& ~~~bitMask n := fun z => by ac_rfl
    show x &&& ~~~bitMask n &&& m = y &&& ~~~bitMask n &&& m
    rw [hswap, h, hswap]

namespace Alike

variable {s t : State} (h : Alike s t)
include h

/-! ## What alike machines agree on -/

theorem config : s.config = t.config := (congrArg State.config h :)
theorem a : s.a = t.a := (congrArg State.a h :)
theorem x : s.x = t.x := (congrArg State.x h :)
theorem y : s.y = t.y := (congrArg State.y h :)
theorem sp : s.sp = t.sp := (congrArg State.sp h :)
theorem pc : s.pc = t.pc := (congrArg State.pc h :)
theorem mem : s.mem = t.mem := (congrArg State.mem h :)
theorem via : s.via = t.via := (congrArg State.via h :)
theorem acia : s.acia = t.acia := (congrArg State.acia h :)
theorem cycleCount : s.cycleCount = t.cycleCount := (congrArg State.cycleCount h :)
theorem p : s.p &&& 0xCF = t.p &&& 0xCF := (congrArg State.p h :)

theorem flag {f : Flag} (hb : f ≠ .b) (hu : f ≠ .u) : s.flag f = t.flag f := by
  have hbit : ∀ x : Byte, (x &&& 0xCF).getLsbD f.pos = x.getLsbD f.pos := fun x => by
    have hf : (0xCF : Byte).getLsbD f.pos = true := by cases f <;> trivial
    rw [BitVec.getLsbD_and, hf, Bool.and_true]
  rw [State.flag, ← hbit, h.p, hbit]
  rfl

/-! ## Updates -/

theorem setA (v : Byte) : Alike (s.setA v) (t.setA v) := (congrArg (State.setA v) h :)
theorem setX (v : Byte) : Alike (s.setX v) (t.setX v) := (congrArg (State.setX v) h :)
theorem setY (v : Byte) : Alike (s.setY v) (t.setY v) := (congrArg (State.setY v) h :)
theorem setSp (v : Byte) : Alike (s.setSp v) (t.setSp v) := (congrArg (State.setSp v) h :)
theorem setPc (v : Addr) : Alike (s.setPc v) (t.setPc v) := (congrArg (State.setPc v) h :)
theorem setP (v : Byte) : Alike (s.setP v) (t.setP v) := (congrArg (State.setP (v &&& 0xCF)) h :)
theorem setMem (v : Memory) : Alike (s.setMem v) (t.setMem v) := (congrArg (State.setMem v) h :)
theorem setVia (v : Via) : Alike (s.setVia v) (t.setVia v) := (congrArg (State.setVia v) h :)
theorem setAcia (v : Acia) : Alike (s.setAcia v) (t.setAcia v) := (congrArg (State.setAcia v) h :)
theorem setHalted (v : Bool) : Alike (s.setHalted v) (t.setHalted v) := (congrArg (State.setHalted v) h :)
theorem setWaiting (v : Bool) : Alike (s.setWaiting v) (t.setWaiting v) := (congrArg (State.setWaiting v) h :)
theorem setResetPending (v : Bool) : Alike (s.setResetPending v) (t.setResetPending v) :=
  (congrArg (State.setResetPending v) h :)
theorem setNmiPending (v : Bool) : Alike (s.setNmiPending v) (t.setNmiPending v) := (congrArg (State.setNmiPending v) h :)
theorem setIrqPending (v : Bool) : Alike (s.setIrqPending v) (t.setIrqPending v) := (congrArg (State.setIrqPending v) h :)
theorem setPendingCycles (v : Nat) : Alike (s.setPendingCycles v) (t.setPendingCycles v) :=
  (congrArg (State.setPendingCycles v) h :)
theorem setCycleCount (v : Nat) : Alike (s.setCycleCount v) (t.setCycleCount v) := (congrArg (State.setCycleCount v) h :)
theorem setHostInput (v : List (List HostAction)) : Alike (s.setHostInput v) (t.setHostInput v) :=
  (congrArg (State.setHostInput v) h :)
theorem setNmiLine (v : Bool) : Alike (s.setNmiLine v) (t.setNmiLine v) := (congrArg (State.setNmiLine v) h :)

theorem setFlag (f : Flag) (b : Bool) : Alike (s.setFlag f b) (t.setFlag f b) := by
  show s.withoutBU.setP (setBit s.p f.pos b &&& 0xCF) = t.withoutBU.setP (setBit t.p f.pos b &&& 0xCF)
  rw [setBit_and_congr h.p, show s.withoutBU = t.withoutBU from h]

theorem setNZ (v : Byte) : Alike (s.setNZ v) (t.setNZ v) := (h.setFlag _ _).setFlag _ _

/-! ## The bus, the stack, the operands -/

theorem busRead (a : Addr) : SameFaultOr AlikeWith (busRead a s) (Machine.busRead a t) := by
  unfold Machine.busRead
  rw [h.config, h.via, h.acia, h.mem]
  split
  · exact ⟨rfl, h.setVia _⟩
  · exact ⟨rfl, h.setAcia _⟩
  · split
    · exact ⟨rfl, h⟩
    · rfl

theorem busWrite (a : Addr) (v : Byte) : SameFaultOr Alike (busWrite a v s) (Machine.busWrite a v t) := by
  unfold Machine.busWrite
  rw [h.config, h.via, h.acia, h.mem]
  split
  · exact h.setVia _
  · exact h.setAcia _
  · split
    · exact h
    · split
      · exact h.setMem _
      · rfl

theorem readWord (a : Addr) : SameFaultOr AlikeWith (readWord a s) (Machine.readWord a t) := by
  refine (h.busRead a).bind ?_
  rintro ⟨lo, s⟩ ⟨_, t⟩ ⟨rfl, h⟩
  refine (h.busRead (a + 1)).bind ?_
  rintro ⟨hi, s⟩ ⟨_, t⟩ ⟨rfl, h⟩
  exact ⟨rfl, h⟩

theorem push (v : Byte) : SameFaultOr Alike (push v s) (Machine.push v t) := by
  unfold Machine.push
  rw [h.sp]
  exact (h.busWrite _ v).bind fun s t h => by
    show Alike _ _
    rw [h.sp]
    exact h.setSp _

theorem pull : SameFaultOr AlikeWith (pull s) (Machine.pull t) := by
  unfold Machine.pull
  rw [h.sp]
  exact (h.setSp _).busRead _

theorem pushWord (w : Addr) : SameFaultOr Alike (pushWord w s) (Machine.pushWord w t) :=
  (h.push _).bind fun _ _ h => h.push _

theorem pullWord : SameFaultOr AlikeWith (pullWord s) (Machine.pullWord t) := by
  refine h.pull.bind ?_
  rintro ⟨lo, s⟩ ⟨_, t⟩ ⟨rfl, h⟩
  refine h.pull.bind ?_
  rintro ⟨hi, s⟩ ⟨_, t⟩ ⟨rfl, h⟩
  exact ⟨rfl, h⟩

theorem addressOf (m : MemMode) : addressOf m s = Machine.addressOf m t := by
  unfold Machine.addressOf
  rw [h.mem, h.x, h.y]

theorem effectiveAddress (m : MemMode) :
    SameFaultOr AlikeWith (effectiveAddress m s) (Machine.effectiveAddress m t) := by
  rw [effectiveAddress_eq, effectiveAddress_eq]
  exact ⟨h.addressOf m, h⟩

theorem readSource (o : Source) : SameFaultOr AlikeWith (readSource o s) (Machine.readSource o t) := by
  cases o with
  | imm v => exact ⟨rfl, h⟩
  | mem m =>
    rw [readSource_mem, readSource_mem, h.addressOf m]
    exact h.busRead _

theorem jumpTarget (j : JumpMode) : SameFaultOr AlikeWith (jumpTarget j s) (Machine.jumpTarget j t) := by
  cases j with
  | abs w => exact ⟨rfl, h⟩
  | ind w => exact h.readWord w
  | iax w =>
    unfold Machine.jumpTarget
    rw [h.x]
    exact h.readWord _

/-! ## Exceptions, returns, resets -/

/-- PHP and BRK push B and U set, whatever is stored (41_transfer_stack.md R160). -/
theorem statusPushedBySoftware : statusPushedBySoftware s.p = Machine.statusPushedBySoftware t.p := by
  have hset : ∀ x : Byte, x ||| 0x30 = x &&& 0xCF ||| 0x30 := by decide
  rw [Machine.statusPushedBySoftware, hset, h.p, ← hset]
  rfl

/-- NMI and IRQ push B clear and U set, whatever is stored (60_exceptions.md R266). -/
theorem statusPushedByHardware : statusPushedByHardware s.p = Machine.statusPushedByHardware t.p := by
  have hset : ∀ x : Byte, (x ||| 0x20) &&& ~~~0x10#8 = (x &&& 0xCF ||| 0x20) &&& ~~~0x10#8 := by decide
  rw [Machine.statusPushedByHardware, hset, h.p, ← hset]
  rfl

theorem enterException (pushed : Byte) (vec : Addr) :
    SameFaultOr Alike (enterException pushed vec s) (Machine.enterException pushed vec t) := by
  unfold Machine.enterException
  rw [h.pc]
  refine (h.pushWord _).bind fun s t h => (h.push pushed).bind fun s t h => ((h.setFlag _ _).readWord vec).bind ?_
  rintro ⟨w, s⟩ ⟨_, t⟩ ⟨rfl, h⟩
  exact h.setPc w

theorem returnFromException : SameFaultOr Alike (returnFromException s) (Machine.returnFromException t) := by
  refine h.pull.bind ?_
  rintro ⟨v, s⟩ ⟨_, t⟩ ⟨rfl, h⟩
  refine (h.setP _).pullWord.bind ?_
  rintro ⟨w, s⟩ ⟨_, t⟩ ⟨rfl, h⟩
  exact h.setPc w

theorem interruptSequence (vec : Addr) :
    SameFaultOr Alike (interruptSequence vec s) (Machine.interruptSequence vec t) := by
  unfold Machine.interruptSequence
  rw [h.statusPushedByHardware]
  exact (h.enterException _ vec).bind fun s t h => (h.setWaiting false).setPendingCycles 7

theorem resetSequence (n : Nat) : SameFaultOr Alike (resetSequence n s) (Machine.resetSequence n t) := by
  unfold Machine.resetSequence
  rw [h.sp]
  refine ((h.setSp _).readWord _).bind ?_
  rintro ⟨w, s⟩ ⟨_, t⟩ ⟨rfl, h⟩
  have h := ((((h.setPc w).setA 0).setX 0).setY 0).setP 0x34
  have h := ((h.setHalted false).setNmiPending false).setIrqPending false
  exact ((h.setWaiting false).setResetPending false).setPendingCycles n

/-! ## The shapes of instruction -/

theorem next : AlikeOutcomes (.next s) (.next t) := congrArg Host.Outcome.next h

theorem withSource {f : Byte → State → State} (hf : ∀ v s t, Alike s t → Alike (f v s) (f v t)) (o : Source) :
    AlikeOutcomes (withSource o f s) (Machine.withSource o f t) := by
  refine ((h.readSource o).bind ?_).toOutcome
  rintro ⟨v, s⟩ ⟨_, t⟩ ⟨rfl, h⟩
  exact hf v s t h

theorem store (m : MemMode) (v : Byte) : AlikeOutcomes (store m v s) (Machine.store m v t) := by
  rw [store_eq, store_eq, h.addressOf m]
  exact (h.busWrite _ v).toOutcome

end Alike

/-- A modifying function that gives alike machines the same byte and leaves them alike. -/
def KeepsAlike (f : Byte → State → Byte × State) : Prop := ∀ v s t, Alike s t → AlikeWith (f v s) (f v t)

namespace Alike

variable {s t : State} (h : Alike s t)
include h

theorem modifyMemory {f : Byte → State → Byte × State} (hf : KeepsAlike f) (m : MemMode) :
    AlikeOutcomes (modifyMemory m f s) (Machine.modifyMemory m f t) := by
  refine ((h.effectiveAddress m).bind ?_).toOutcome
  rintro ⟨ea, s⟩ ⟨_, t⟩ ⟨rfl, h⟩
  refine (h.busRead ea).bind ?_
  rintro ⟨v, s⟩ ⟨_, t⟩ ⟨rfl, h⟩
  obtain ⟨hv, hs⟩ := hf v s t h
  show SameFaultOr Alike (Machine.busWrite ea (f v s).1 (f v s).2) (Machine.busWrite ea (f v t).1 (f v t).2)
  rw [hv]
  exact hs.busWrite ea _

theorem modify {f : Byte → State → Byte × State} (hf : KeepsAlike f) (o : Target) :
    AlikeOutcomes (modify o f s) (Machine.modify o f t) := by
  cases o with
  | acc =>
    obtain ⟨hv, hs⟩ := hf t.a s t h
    unfold Machine.modify
    rw [h.a, hv]
    exact (hs.setA _).next
  | mem m => exact h.modifyMemory hf m

theorem pushRegister (v : Byte) : AlikeOutcomes (pushRegister v s) (Machine.pushRegister v t) := (h.push v).toOutcome

theorem pullRegister {f : Byte → State → State} (hf : ∀ v s t, Alike s t → Alike (f v s) (f v t)) :
    AlikeOutcomes (pullRegister f s) (Machine.pullRegister f t) := by
  refine (h.pull.bind ?_).toOutcome
  rintro ⟨v, s⟩ ⟨_, t⟩ ⟨rfl, h⟩
  exact hf v s t h

theorem branch (c : Bool) (off : Byte) : AlikeOutcomes (branch c off s) (Machine.branch c off t) := by
  unfold Machine.branch
  rw [h.pc]
  split
  · exact (h.setPc _).next
  · exact h.next

theorem branchOnBit (n : Nat) (c : Bool) (z off : Byte) :
    AlikeOutcomes (branchOnBit n c z off s) (Machine.branchOnBit n c z off t) := by
  rw [branchOnBit_eq, branchOnBit_eq, h.mem, h.pc]
  split
  · exact (h.setPc _).next
  · exact h.next

/-! ## What an instruction computes -/

theorem decimalActive : s.decimalActive = t.decimalActive := by
  unfold State.decimalActive
  rw [h.config, h.flag (f := .d) (by decide) (by decide)]

theorem addToA (m : Byte) : Alike (s.addToA m) (t.addToA m) := by
  unfold State.addToA
  rw [h.a, h.flag (f := .c) (by decide) (by decide), h.decimalActive]
  exact (((h.setFlag .v _).setNZ _).setFlag .c _).setA _

theorem subFromA (m : Byte) : Alike (s.subFromA m) (t.subFromA m) := by
  unfold State.subFromA
  rw [h.a, h.flag (f := .c) (by decide) (by decide), h.decimalActive]
  exact (((h.setFlag .v _).setNZ _).setFlag .c _).setA _

theorem compare (r m : Byte) : Alike (s.compare r m) (t.compare r m) := (h.setFlag .c _).setNZ _

theorem testZ (m : Byte) : Alike (s.testZ m) (t.testZ m) := by
  unfold State.testZ
  rw [h.a]
  exact h.setFlag .z _

theorem testNV (m : Byte) : Alike (s.testNV m) (t.testNV m) := (h.setFlag .n _).setFlag .v _

theorem execBit (o : Source) : AlikeOutcomes (execBit o s) (Machine.execBit o t) := by
  unfold Machine.execBit
  rw [h.config]
  split
  · split
    · exact h.withSource (fun v s t h => h.testZ v) _
    · exact h.withSource (fun v s t h => (h.testZ v).testNV v) _
  · exact h.withSource (fun v s t h => (h.testZ v).testNV v) _

end Alike

theorem keepsAlike_asl : KeepsAlike aslByte := fun _ _ _ h => ⟨rfl, (h.setFlag .c _).setNZ _⟩
theorem keepsAlike_lsr : KeepsAlike lsrByte := fun _ _ _ h => ⟨rfl, (h.setFlag .c _).setNZ _⟩

theorem keepsAlike_rol : KeepsAlike rolByte := fun _ _ _ h => by
  unfold rolByte
  rw [h.flag (f := .c) (by decide) (by decide)]
  exact ⟨rfl, (h.setFlag .c _).setNZ _⟩

theorem keepsAlike_ror : KeepsAlike rorByte := fun _ _ _ h => by
  unfold rorByte
  rw [h.flag (f := .c) (by decide) (by decide)]
  exact ⟨rfl, (h.setFlag .c _).setNZ _⟩

theorem keepsAlike_inc : KeepsAlike incByte := fun _ _ _ h => ⟨rfl, h.setNZ _⟩
theorem keepsAlike_dec : KeepsAlike decByte := fun _ _ _ h => ⟨rfl, h.setNZ _⟩

theorem keepsAlike_trb : KeepsAlike trbByte := fun _ _ _ h => by
  unfold trbByte
  rw [h.a]
  exact ⟨rfl, h.testZ _⟩

theorem keepsAlike_tsb : KeepsAlike tsbByte := fun _ _ _ h => by
  unfold tsbByte
  rw [h.a]
  exact ⟨rfl, h.testZ _⟩

theorem keepsAlike_rmb (n : Nat) : KeepsAlike (rmbByte n) := fun _ _ _ h => ⟨rfl, h⟩
theorem keepsAlike_smb (n : Nat) : KeepsAlike (smbByte n) := fun _ _ _ h => ⟨rfl, h⟩

/-- Alike machines execute an instruction alike. -/
theorem Alike.exec {s t : State} (h : Alike s t) (i : Instr) : AlikeOutcomes (exec i s) (Machine.exec i t) := by
  have hc := h.flag (f := .c) (by decide) (by decide)
  have hz := h.flag (f := .z) (by decide) (by decide)
  have hv := h.flag (f := .v) (by decide) (by decide)
  have hn := h.flag (f := .n) (by decide) (by decide)
  cases i
  case lda o => exact h.withSource (fun v _ _ h => (h.setA v).setNZ v) o
  case ldx o => exact h.withSource (fun v _ _ h => (h.setX v).setNZ v) o
  case ldy o => exact h.withSource (fun v _ _ h => (h.setY v).setNZ v) o
  case sta m =>
    simp only [Machine.exec, execSta, h.a]
    exact h.store m _
  case stx m =>
    simp only [Machine.exec, execStx, h.x]
    exact h.store m _
  case sty m =>
    simp only [Machine.exec, execSty, h.y]
    exact h.store m _
  case stz m => exact h.store m _
  case tax =>
    simp only [Machine.exec, execTax, h.a]
    exact ((h.setX _).setNZ _).next
  case tay =>
    simp only [Machine.exec, execTay, h.a]
    exact ((h.setY _).setNZ _).next
  case txa =>
    simp only [Machine.exec, execTxa, h.x]
    exact ((h.setA _).setNZ _).next
  case tya =>
    simp only [Machine.exec, execTya, h.y]
    exact ((h.setA _).setNZ _).next
  case tsx =>
    simp only [Machine.exec, execTsx, h.sp]
    exact ((h.setX _).setNZ _).next
  case txs =>
    simp only [Machine.exec, execTxs, h.x]
    exact (h.setSp _).next
  case pha =>
    simp only [Machine.exec, execPha, h.a]
    exact h.pushRegister _
  case phx =>
    simp only [Machine.exec, execPhx, h.x]
    exact h.pushRegister _
  case phy =>
    simp only [Machine.exec, execPhy, h.y]
    exact h.pushRegister _
  case php =>
    simp only [Machine.exec, execPhp, h.statusPushedBySoftware]
    exact h.pushRegister _
  case pla => exact h.pullRegister fun v _ _ h => (h.setA v).setNZ v
  case plx => exact h.pullRegister fun v _ _ h => (h.setX v).setNZ v
  case ply => exact h.pullRegister fun v _ _ h => (h.setY v).setNZ v
  case plp => exact h.pullRegister fun v _ _ h => h.setP (statusPulled v)
  case adc o => exact h.withSource (fun v _ _ h => h.addToA v) o
  case sbc o => exact h.withSource (fun v _ _ h => h.subFromA v) o
  case cmp o =>
    simp only [Machine.exec, execCmp]
    exact h.withSource (fun v _ _ h => h.a ▸ h.compare _ v) o
  case cpx o =>
    simp only [Machine.exec, execCpx]
    exact h.withSource (fun v _ _ h => h.x ▸ h.compare _ v) o
  case cpy o =>
    simp only [Machine.exec, execCpy]
    exact h.withSource (fun v _ _ h => h.y ▸ h.compare _ v) o
  case and o =>
    simp only [Machine.exec, execAnd]
    exact h.withSource (fun v _ _ h => h.a ▸ (h.setA _).setNZ _) o
  case ora o =>
    simp only [Machine.exec, execOra]
    exact h.withSource (fun v _ _ h => h.a ▸ (h.setA _).setNZ _) o
  case eor o =>
    simp only [Machine.exec, execEor]
    exact h.withSource (fun v _ _ h => h.a ▸ (h.setA _).setNZ _) o
  case bit o => exact h.execBit o
  case asl o => exact h.modify keepsAlike_asl o
  case lsr o => exact h.modify keepsAlike_lsr o
  case rol o => exact h.modify keepsAlike_rol o
  case ror o => exact h.modify keepsAlike_ror o
  case inc o => exact h.modify keepsAlike_inc o
  case dec o => exact h.modify keepsAlike_dec o
  case trb m => exact h.modifyMemory keepsAlike_trb m
  case tsb m => exact h.modifyMemory keepsAlike_tsb m
  case rmb0 z | rmb1 z | rmb2 z | rmb3 z | rmb4 z | rmb5 z | rmb6 z | rmb7 z =>
    exact h.modifyMemory (keepsAlike_rmb _) (.zp z)
  case smb0 z | smb1 z | smb2 z | smb3 z | smb4 z | smb5 z | smb6 z | smb7 z =>
    exact h.modifyMemory (keepsAlike_smb _) (.zp z)
  case inx | dex =>
    simp only [Machine.exec, execInx, execDex, h.x]
    exact ((h.setX _).setNZ _).next
  case iny | dey =>
    simp only [Machine.exec, execIny, execDey, h.y]
    exact ((h.setY _).setNZ _).next
  case clc | sec | cli | sei | cld | sed | clv => exact (h.setFlag _ _).next
  case jmp j =>
    refine ((h.jumpTarget j).bind ?_).toOutcome
    rintro ⟨w, s⟩ ⟨_, t⟩ ⟨rfl, h⟩
    exact h.setPc w
  case jsr w =>
    simp only [Machine.exec, execJsr, h.pc]
    exact SameFaultOr.toOutcome ((h.pushWord _).bind fun _ _ h => h.setPc w)
  case rts =>
    refine (h.pullWord.bind ?_).toOutcome
    rintro ⟨w, s⟩ ⟨_, t⟩ ⟨rfl, h⟩
    exact h.setPc (w + 1)
  case bpl off | bmi off =>
    simp only [Machine.exec, execBpl, execBmi, hn]
    exact h.branch _ off
  case bvc off | bvs off =>
    simp only [Machine.exec, execBvc, execBvs, hv]
    exact h.branch _ off
  case bcc off | bcs off =>
    simp only [Machine.exec, execBcc, execBcs, hc]
    exact h.branch _ off
  case bne off | beq off =>
    simp only [Machine.exec, execBne, execBeq, hz]
    exact h.branch _ off
  case bra off => exact h.branch true off
  case nop | nopReserved => exact h.next
  case brk =>
    simp only [Machine.exec, execBrk, h.pc, h.statusPushedBySoftware]
    exact ((h.setPc _).enterException _ _).toOutcome
  case rti => exact h.returnFromException.toOutcome
  case wai => exact (h.setWaiting true).next
  case stp => exact (h.setHalted true).next
  all_goals exact h.branchOnBit _ _ _ _

/-! ## A step -/

theorem Alike.fetch {s t : State} (h : Alike s t) : SameFaultOr AlikeWith (fetch s) (Machine.fetch t) := by
  unfold Machine.fetch
  rw [h.pc]
  refine (h.busRead _).bind ?_
  rintro ⟨op, s⟩ ⟨_, t⟩ ⟨rfl, h⟩
  dsimp only
  rw [h.pc]
  have h := h.setPc (t.pc + 1)
  have hc : s.config = t.config := h.config
  simp only [State.setPc_config, State.setPc_pc, hc]
  split
  · exact ⟨rfl, h⟩
  · exact ⟨rfl, h.setPc _⟩
  · refine (h.busRead _).bind ?_
    rintro ⟨b, s⟩ ⟨_, t⟩ ⟨rfl, h⟩
    dsimp only
    rw [h.pc]
    exact ⟨rfl, h.setPc _⟩
  · refine (h.busRead _).bind ?_
    rintro ⟨b, s⟩ ⟨_, t⟩ ⟨rfl, h⟩
    dsimp only
    rw [h.pc]
    refine (h.busRead _).bind ?_
    rintro ⟨c, s⟩ ⟨_, t⟩ ⟨rfl, h⟩
    dsimp only
    rw [h.pc]
    exact ⟨rfl, h.setPc _⟩

theorem Alike.executeInstruction {s t : State} (h : Alike s t) :
    AlikeOutcomes (executeInstruction s) (Machine.executeInstruction t) := by
  have hf := h.fetch
  unfold Machine.executeInstruction
  revert hf
  generalize Machine.fetch s = r
  generalize Machine.fetch t = r'
  intro hf
  rcases r with f | ⟨⟨i, n⟩, s⟩ <;> rcases r' with g | ⟨⟨j, m⟩, t⟩
  · exact congrArg Host.Outcome.fault hf
  · exact hf.elim
  · exact hf.elim
  · obtain ⟨hin, h⟩ := hf
    cases hin
    exact (h.exec i).mapNext fun _ _ h => h.setPendingCycles n

theorem Alike.serviceBoundary {s t : State} (h : Alike s t) :
    AlikeOutcomes (serviceBoundary s) (Machine.serviceBoundary t) := by
  have hr : s.resetPending = t.resetPending := (congrArg State.resetPending h :)
  have hn : s.nmiPending = t.nmiPending := (congrArg State.nmiPending h :)
  have hi : s.irqPending = t.irqPending := (congrArg State.irqPending h :)
  unfold Machine.serviceBoundary
  rw [hr, hn, hi, h.flag (f := .i) (by decide) (by decide)]
  split
  · exact (h.resetSequence 7).toOutcome
  · split
    · exact ((h.setNmiPending false).interruptSequence _).toOutcome
    · split
      · exact ((h.setIrqPending false).interruptSequence _).toOutcome
      · exact h.executeInstruction

theorem Alike.spendCycle {s t : State} (h : Alike s t) : Alike (spendCycle s) (Machine.spendCycle t) :=
  (congrArg Machine.spendCycle h :)

theorem Alike.cpuStep {s t : State} (h : Alike s t) : AlikeOutcomes (cpuStep s) (Machine.cpuStep t) := by
  have hh : s.halted = t.halted := (congrArg State.halted h :)
  have hw : s.waiting = t.waiting := (congrArg State.waiting h :)
  have hr : s.resetPending = t.resetPending := (congrArg State.resetPending h :)
  have ha : s.anyPending = t.anyPending := (congrArg State.anyPending h :)
  have hp : s.pendingCycles = t.pendingCycles := (congrArg State.pendingCycles h :)
  unfold Machine.cpuStep
  rw [hh, hw, hr, ha, hp]
  split
  · exact h.spendCycle.next
  · split
    · exact h.next
    · split
      · exact (h.setWaiting false).spendCycle.next
      · exact (h.setWaiting false).serviceBoundary.mapNext fun _ _ h => h.spendCycle

theorem Alike.busTick {s t : State} (h : Alike s t) : Alike (busTick s) (Machine.busTick t) := by
  have hw : ∀ s : State, (Machine.busTick s).withoutBU = Machine.busTick s.withoutBU := fun s => by
    rw [busTick_eq, busTick_eq]
    rfl
  rw [Alike, hw, hw]
  exact congrArg Machine.busTick h

theorem Alike.perform {s t : State} (h : Alike s t) (a : HostAction) :
    SameFaultOr Alike (a.perform s) (a.perform t) := by
  have hq : s.hostInput = t.hostInput := (congrArg State.hostInput h :)
  unfold HostAction.perform
  rw [h.config, h.via, h.acia, hq]
  cases a with
  | powerOn images => exact (rfl : Alike _ _)
  | resetImmediate => exact h.resetSequence 0
  | requestReset => exact h.setResetPending true
  | setNmiLine high => exact h.setNmiLine high
  | setPortAInput v | setPortBInput v => exact h.setVia _
  | supplyRx bytes =>
    show Alike _ _
    split
    · exact h.setAcia _
    · exact h

theorem Alike.performAll (l : List HostAction) : ∀ {s t : State}, Alike s t →
    SameFaultOr Alike (performAll l s) (Machine.performAll l t) := by
  induction l with
  | nil => exact fun h => h
  | cons a l ih => exact fun h => (h.perform a).bind fun _ _ h => ih h

theorem Alike.performDue {s t : State} (h : Alike s t) : SameFaultOr Alike (performDue s) (Machine.performDue t) := by
  unfold Machine.performDue
  rw [show s.hostInput = t.hostInput from (congrArg State.hostInput h :)]
  split
  · exact h
  · exact Alike.performAll _ (h.setHostInput _)

/-- Settles O57: alike machines step alike. -/
theorem storedBUnobservable : Obligations.StoredBUnobservable := by
  intro s t h
  have hd := Alike.performDue h
  obtain ⟨u, hu⟩ := performDue_ok s
  obtain ⟨v, hv⟩ := performDue_ok t
  rw [hu, hv] at hd
  rw [step_eq hu, step_eq hv]
  exact AlikeOutcomes.mapNext (Alike.cpuStep hd) fun x y h =>
    h.cycleCount ▸ h.busTick.setCycleCount _

end Sys2Proof.Machine
end

section
/-! Obligations O8, O9, O10, O11 and O13: the address map, the side effects of reads, words, ROM images (20_memory.md R64 to R85)
and the addressing modes (30_encoding.md R104 to R117). -/

namespace Sys2Proof.Machine

/-! ## The routing as ranges -/

theorem deviceAt_via_iff {c : Config} {a : Addr} : deviceAt c a = some .via ↔ 0x6000 ≤ a.toNat ∧ a.toNat ≤ 0x600F := by
  rw [deviceAt_eq]
  split
  · next h => simp [h]
  · next h =>
    split
    · simp [h]
    · simp [h]

theorem deviceAt_acia_iff {c : Config} {a : Addr} :
    deviceAt c a = some .acia ↔ c.aciaPresent = true ∧ 0x5000 ≤ a.toNat ∧ a.toNat ≤ 0x5003 := by
  rw [deviceAt_eq]
  split
  · next h => simp; omega
  · next h =>
    split
    · next h' => simp [h']
    · next h' => simp [h']

/-- The addresses that nothing answers (20_memory.md R64, R69; 60_exceptions.md R333). -/
theorem mapped_eq_false_iff {c : Config} {a : Addr} : mapped c a = false ↔
    (0x4000 ≤ a.toNat ∧ a.toNat ≤ 0x4FFF) ∨ (0x5004 ≤ a.toNat ∧ a.toNat ≤ 0x5FFF) ∨
    (0x6010 ≤ a.toNat ∧ a.toNat ≤ 0x7FFF) ∨ (c.aciaPresent = false ∧ 0x5000 ≤ a.toNat ∧ a.toNat ≤ 0x5003) := by
  have hplain : isPlain a = false ↔ 0x4000 ≤ a.toNat ∧ a.toNat ≤ 0x7FFF := by
    rw [← Bool.not_eq_true, isPlain_iff]
    omega
  have hdevice : (deviceAt c a).isSome = false ↔ ¬(deviceAt c a = some .via) ∧ ¬(deviceAt c a = some .acia) := by
    cases deviceAt c a with
    | none => simp
    | some d => cases d <;> simp
  rw [mapped, Bool.or_eq_false_iff, hplain, hdevice, deviceAt_via_iff, deviceAt_acia_iff]
  cases c.aciaPresent
  · simp
    omega
  · simp
    omega

/-- The address of an ACIA register (60_exceptions.md R320). -/
def AciaReg.addr (r : AciaReg) : Addr := 0x5000#16 + BitVec.ofNat 16 r.ctorIdx

theorem AciaReg.ofAddr_addr (r : AciaReg) : AciaReg.ofAddr r.addr = r := by cases r <;> rfl

theorem exists_viaReg {a : Addr} (h : 0x6000 ≤ a.toNat ∧ a.toNat ≤ 0x600F) : ∃ r : ViaReg, a = r.addr := by
  have hall : ∀ k < 16, (ViaReg.ofAddr (BitVec.ofNat 16 (0x6000 + k))).addr = BitVec.ofNat 16 (0x6000 + k) := by decide
  have ha : a = BitVec.ofNat 16 (0x6000 + (a.toNat - 0x6000)) := by bv_omega
  exact ⟨_, ha.trans (hall _ (by omega)).symm⟩

theorem exists_aciaReg {a : Addr} (h : 0x5000 ≤ a.toNat ∧ a.toNat ≤ 0x5003) : ∃ r : AciaReg, a = r.addr := by
  have hall : ∀ k < 4, (AciaReg.ofAddr (BitVec.ofNat 16 (0x5000 + k))).addr = BitVec.ofNat 16 (0x5000 + k) := by decide
  have ha : a = BitVec.ofNat 16 (0x5000 + (a.toNat - 0x5000)) := by bv_omega
  exact ⟨_, ha.trans (hall _ (by omega)).symm⟩

/-! ## The side effects of reads -/

/-- Only three reads of the VIA change it (60_exceptions.md R301, R303, R307). -/
theorem Via.read_snd_of_pure {r : ViaReg} (hora : r ≠ .ora) (ht1 : r ≠ .t1cL) (ht2 : r ≠ .t2cL) (d : Via) :
    (d.read r).2 = d := by
  cases r
  case ora => contradiction
  case t1cL => contradiction
  case t2cL => contradiction
  all_goals rfl

/-- Only a read of the ACIA's data register changes it (60_exceptions.md R321). -/
theorem Acia.read_snd_of_pure {r : AciaReg} (h : r ≠ .data) (c : Config) (d : Acia) : (d.read c r).2 = d := by
  cases r with
  | data => contradiction
  | status | command | control =>
    simp only [Acia.read]
    split <;> rfl

/-- A read at any other address changes nothing (20_memory.md R75). -/
theorem busRead_pure {a : Addr} {v : Byte} {s t : State} (h : busRead a s = .ok (v, t)) (hdata : a ≠ 0x5000)
    (hora : a ≠ 0x6001) (ht1 : a ≠ 0x6004) (ht2 : a ≠ 0x6008) : t = s := by
  rcases busRead_cases h with ⟨hd, -, rfl⟩ | ⟨hd, -, rfl⟩ | ⟨-, -, rfl⟩
  · obtain ⟨r, rfl⟩ := exists_viaReg (deviceAt_via_iff.1 hd)
    rw [ViaReg.ofAddr_addr, Via.read_snd_of_pure (by rintro rfl; exact hora rfl) (by rintro rfl; exact ht1 rfl)
      (by rintro rfl; exact ht2 rfl)]
    rfl
  · obtain ⟨r, rfl⟩ := exists_aciaReg (deviceAt_acia_iff.1 hd).2
    rw [AciaReg.ofAddr_addr, Acia.read_snd_of_pure (by rintro rfl; exact hdata rfl)]
    rfl
  · rfl

/-- What a read of the data register leaves (60_exceptions.md R321). -/
theorem Acia.readData_snd (d : Acia) : d.readData.2 = { d with
    rxFifo := d.rxFifo.tail
    status := if d.rxFifo.length = 1 then d.status &&& 0xF7 else d.status } := by
  cases h : d.rxFifo with
  | nil =>
    obtain ⟨⟩ := d
    cases h
    rfl
  | cons b rest =>
    rw [Acia.readData_cons h]
    simp

/-- Settles O8: a read at one of the four addresses is that register's, any other is pure. -/
theorem readSideEffects : Obligations.ReadSideEffects := by
  intro a v s t h
  refine ⟨busRead_pure h, ?_, ?_, ?_, ?_⟩
  · rintro rfl
    have hp : s.config.aciaPresent = true := by
      by_contra hp
      rw [busRead_unmappedAddr (mapped_eq_false_iff.2 (.inr (.inr (.inr ⟨by simpa using hp, by decide⟩))))] at h
      cases h
    rw [busRead_aciaData hp, Acia.readData_snd] at h
    cases h
    rfl
  · rintro rfl
    cases (busRead_viaReg .ora s).symm.trans h
    rfl
  · rintro rfl
    cases (busRead_viaReg .t1cL s).symm.trans h
    rfl
  · rintro rfl
    cases (busRead_viaReg .t2cL s).symm.trans h
    rfl

/-! ## Instructions at an unmapped address -/

theorem addressOf_of_effectiveAddress {m : MemMode} {s : State} {ea : Addr} (h : effectiveAddress m s = .ok (ea, s)) :
    addressOf m s = ea := by
  rw [effectiveAddress_eq] at h
  cases h
  rfl

theorem store_unmapped {m : MemMode} {s : State} (h : mapped s.config (addressOf m s) = false) (v : Byte) :
    store m v s = .fault (.outOfRange (addressOf m s)) := by
  rw [store_eq, busWrite_unmappedAddr v h]
  rfl

theorem jmp_fault {j : JumpMode} {s : State} {f : Fault} (h : jumpTarget j s = .error f) :
    exec (.jmp j) s = .fault f := by
  rw [exec, execJmp, h]
  rfl

/-- A word through the bus faults at the first of its bytes that is unmapped (20_memory.md R68, R69). -/
theorem jmp_pointer_fault {j : JumpMode} {p : Addr} {s : State} (h : jumpTarget j s = readWord p s) :
    (mapped s.config p = false → exec (.jmp j) s = .fault (.outOfRange p)) ∧
    (mapped s.config p = true → mapped s.config (p + 1) = false → exec (.jmp j) s = .fault (.outOfRange (p + 1))) :=
  ⟨fun h0 => jmp_fault (h.trans (readWord_first_unmapped h0)),
    fun h0 h1 => jmp_fault (h.trans (readWord_second_unmapped h0 h1))⟩

/-! ## Sums as numbers -/

theorem ofNat_succ_mod (a : Addr) : BitVec.ofNat 16 ((a.toNat + 1) % 65536) = a + 1 := by bv_omega

theorem zext16_eq_ofNat (z : Byte) : zext16 z = BitVec.ofNat 16 z.toNat := by
  simp only [zext16]
  bv_omega

/-- A zero-page sum wraps in the page (30_encoding.md R107). -/
theorem zext16_add (z x : Byte) : zext16 (z + x) = BitVec.ofNat 16 ((z.toNat + x.toNat) % 256) := by
  rw [zext16_eq_ofNat, BitVec.toNat_add]

/-- A 16-bit sum wraps modulo 65536 (30_encoding.md R111). -/
theorem add_zext16 (w : Addr) (x : Byte) : w + zext16 x = BitVec.ofNat 16 ((w.toNat + x.toNat) % 65536) := by
  rw [zext16_eq_ofNat]
  bv_omega

theorem toNat_ofNat_byteSum (z x : Byte) : (BitVec.ofNat 16 ((z.toNat + x.toNat) % 256)).toNat = (z + x).toNat := by
  bv_omega

/-- Settles O9: the routing as ranges, and the fault of each shape of access. -/
theorem addressMap : Obligations.AddressMap := by
  refine ⟨fun c a => ⟨deviceAt_via_iff, deviceAt_acia_iff, fun hlo hhi => ?_, fun hlo hhi => ?_, mapped_eq_false_iff⟩,
    fun a v s h => ⟨busRead_unmappedAddr h, busWrite_unmappedAddr v h⟩, fun m s ea hea h => ?_, fun w s => ?_⟩
  · obtain ⟨r, rfl⟩ := exists_viaReg ⟨hlo, hhi⟩
    cases r <;> rfl
  · obtain ⟨r, rfl⟩ := exists_aciaReg ⟨hlo, hhi⟩
    cases r <;> rfl
  · cases addressOf_of_effectiveAddress hea
    have hread : readSource (.mem m) s = .error (.outOfRange (addressOf m s)) :=
      (readSource_mem m s).trans (busRead_unmappedAddr h)
    have hmodify := fun f => modifyMemory_of_error (m := m) (busRead_unmappedAddr h) f
    simp only [List.forall_mem_cons, List.not_mem_nil, false_implies, implies_true, and_true]
    refine ⟨?_, ?_, ?_⟩
    · simp only [exec, execLda, execLdx, execLdy, execAdc, execSbc, execCmp, execCpx, execCpy, execAnd, execOra, execEor,
        execBit, withSource_of_error hread, and_self]
    · exact ⟨store_unmapped h _, store_unmapped h _, store_unmapped h _, store_unmapped h _, hmodify _, hmodify _⟩
    · and_intros <;> exact hmodify _
  · simp only [List.forall_mem_cons, List.not_mem_nil, false_implies, implies_true, and_true]
    refine ⟨?_, ?_⟩
    · rw [ofNat_succ_mod, BitVec.ofNat_toNat, BitVec.setWidth_eq]
      exact jmp_pointer_fault rfl
    · have hp : BitVec.ofNat 16 (((w.toNat + s.x.toNat) % 65536 + 1) % 65536) = w + zext16 s.x + 1 := by
        rw [add_zext16]
        bv_omega
      rw [← add_zext16, hp]
      exact jmp_pointer_fault rfl

/-- Settles O10: the two reads of `readWord` succeed, and the bytes make up the word. -/
theorem readWordRule : Obligations.ReadWordRule := by
  intro a s h0 h1
  obtain ⟨lo, u, hlo⟩ := busRead_mapped h0
  obtain ⟨hi, t, hhi⟩ := busRead_mapped (s := u) ((busRead_keeps hlo).2 ▸ h1)
  refine ⟨lo, hi, u, t, hlo, ofNat_succ_mod a ▸ hhi, wordOf hi lo, ?_, toNat_wordOf hi lo⟩
  simp only [readWord, hlo, hhi, bind, Except.bind]

/-! ## ROM images -/

/-- What one image leaves at an address (20_memory.md R72). -/
theorem Memory.read_loadImage (bytes : List Byte) {k : Nat} (hk : k < 65536) : ∀ {m : Memory} (a : Nat), m.wf →
    (m.loadImage a bytes).read k =
      if 0x8000 ≤ k ∧ a ≤ k then (bytes[k - a]?).getD (m.read k) else m.read k := by
  induction bytes with
  | nil => simp [Memory.loadImage]
  | cons v rest ih =>
    intro m a hm
    have hread : ((if 0x8000 ≤ a ∧ a < 65536 then m.write a v else m).read k) =
        if k = a ∧ 0x8000 ≤ k then v else m.read k := by
      split
      · next ha =>
        by_cases hka : k = a
        · subst hka
          rw [if_pos ⟨rfl, ha.1⟩, Memory.read_write_same hm]
        · rw [if_neg (fun h => hka h.1), Memory.read_write_other v hka]
      · next ha => rw [if_neg (by rintro ⟨rfl, h⟩; exact ha ⟨h, hk⟩)]
    have hwf : (if 0x8000 ≤ a ∧ a < 65536 then m.write a v else m).wf := by
      split
      · exact Memory.write_wf hm a v
      · exact hm
    rw [Memory.loadImage, ih (a + 1) hwf, hread]
    rcases Nat.lt_trichotomy k a with hlt | rfl | hgt
    · simp [show ¬a + 1 ≤ k by omega, show ¬a ≤ k by omega, hlt.ne]
    · simp
    · obtain ⟨j, rfl⟩ : ∃ j, k = a + 1 + j := ⟨k - (a + 1), by omega⟩
      have hj : a + 1 + j - a = j + 1 := by omega
      simp [hj, hgt.ne', show a ≤ a + 1 + j by omega]

/-- What several images leave at an address: the last one that has a byte for it gives it. -/
theorem Memory.read_loadImages (images : List (Addr × List Byte)) {k : Nat} (hk : k < 65536) : ∀ {m : Memory}, m.wf →
    (m.loadImages images).read k =
      if 0x8000 ≤ k then
        (images.reverse.findSome? fun i => if i.1.toNat ≤ k then i.2[k - i.1.toNat]? else none).getD (m.read k)
      else m.read k := by
  induction images with
  | nil => simp [Memory.loadImages]
  | cons i rest ih =>
    intro m hm
    obtain ⟨load, bytes⟩ := i
    rw [Memory.loadImages, ih (Memory.loadImage_wf bytes load.toNat hm), Memory.read_loadImage bytes hk load.toNat hm]
    by_cases hrom : 0x8000 ≤ k
    · by_cases hle : load.toNat ≤ k
      · simp [hrom, hle, List.findSome?_append, Option.getD_or]
      · simp [hrom, hle, List.findSome?_append]
    · simp [hrom]

/-- Settles O11, image by image and byte by byte. -/
theorem romImagePlacement : Obligations.RomImagePlacement := fun _ load bytes _ hm hk =>
  ⟨Memory.read_loadImage bytes hk load.toNat hm, fun images => Memory.read_loadImages images hk hm⟩

/-! ## Addressing modes -/

/-- A zero-page pointer as a number: its high byte's address wraps in the page (20_memory.md R62). -/
theorem pointer_eq_ofNat (z : Byte) (s : State) :
    wordOf (s.mem.read (zext16 (z + 1)).toNat) (s.mem.read (zext16 z).toNat) =
      BitVec.ofNat 16 ((s.byteAt (BitVec.ofNat 16 ((z.toNat + 1) % 256))).toNat * 256 +
        (s.byteAt (BitVec.ofNat 16 z.toNat)).toNat) := by
  rw [wordOf_eq_ofNat, zext16_add, zext16_eq_ofNat]
  rfl

theorem effectiveAddress_of_addressOf {m : MemMode} {s : State} {a : Addr} (h : addressOf m s = a) :
    effectiveAddress m s = .ok (a, s) :=
  h ▸ effectiveAddress_eq m s

/-- Settles O13, mode by mode, from the address as a function of the state. -/
theorem effectiveAddresses : Obligations.EffectiveAddresses := by
  intro z w s
  refine ⟨⟨effectiveAddress_of_addressOf (zext16_eq_ofNat z), effectiveAddress_of_addressOf (zext16_add z s.x),
    effectiveAddress_of_addressOf (zext16_add z s.y), rfl, effectiveAddress_of_addressOf (add_zext16 w s.x),
    effectiveAddress_of_addressOf (add_zext16 w s.y), effectiveAddress_of_addressOf ?_, effectiveAddress_of_addressOf ?_,
    effectiveAddress_of_addressOf (pointer_eq_ofNat z s)⟩, readSource_imm z s, fun m ea h => ?_⟩
  · rw [toNat_ofNat_byteSum]
    exact pointer_eq_ofNat (z + s.x) s
  · refine (add_zext16 _ s.y).trans ?_
    dsimp only
    rw [pointer_eq_ofNat, BitVec.toNat_ofNat, Nat.mod_add_mod]
  · rw [readSource_mem, addressOf_of_effectiveAddress h]

end Sys2Proof.Machine
end

section
/-! Obligations O14, O15, O16, O17 and O18: loads, stores, transfers, pushes and pulls, 40_load_store.md and
41_transfer_stack.md. First a frame rule per update, so that the frame of an instruction is read off its updates; then what
an operand's read leaves, and the shapes of instruction. -/

namespace Sys2Proof.Machine

/-! ## Frames, update by update -/

theorem SameControl.refl (s : State) : SameControl s s := by constructor <;> rfl

theorem SameControl.trans {s t u : State} (h : SameControl s t) (k : SameControl t u) : SameControl s u := by
  constructor
  · exact k.config.trans h.config
  · exact k.resetPending.trans h.resetPending
  · exact k.nmiPending.trans h.nmiPending
  · exact k.nmiLastHigh.trans h.nmiLastHigh
  · exact k.irqPending.trans h.irqPending
  · exact k.waiting.trans h.waiting
  · exact k.halted.trans h.halted
  · exact k.pendingCycles.trans h.pendingCycles
  · exact k.lastIrqVia.trans h.lastIrqVia
  · exact k.lastIrqAcia.trans h.lastIrqAcia
  · exact k.cycleCount.trans h.cycleCount
  · exact k.hostInput.trans h.hostInput

namespace CpuFrame

variable {rs : List Reg} {fs : List Flag} {s t u : State}

theorem refl (rs : List Reg) (fs : List Flag) (s : State) : CpuFrame rs fs s s :=
  ⟨fun _ _ => rfl, fun _ _ => rfl, SameControl.refl s⟩

theorem trans (h : CpuFrame rs fs s t) (k : CpuFrame rs fs t u) : CpuFrame rs fs s u :=
  ⟨fun r hr => (k.reg r hr).trans (h.reg r hr), fun f hf => (k.flag f hf).trans (h.flag f hf), h.control.trans k.control⟩

theorem setA (h : CpuFrame rs fs s t) (v : Byte) (hr : .a ∈ rs := by decide) : CpuFrame rs fs s (t.setA v) where
  reg r hn := by
    cases r with
    | a => contradiction
    | x | y | sp => exact h.reg _ hn
  flag := h.flag
  control := { h.control with }

theorem setX (h : CpuFrame rs fs s t) (v : Byte) (hr : .x ∈ rs := by decide) : CpuFrame rs fs s (t.setX v) where
  reg r hn := by
    cases r with
    | x => contradiction
    | a | y | sp => exact h.reg _ hn
  flag := h.flag
  control := { h.control with }

theorem setY (h : CpuFrame rs fs s t) (v : Byte) (hr : .y ∈ rs := by decide) : CpuFrame rs fs s (t.setY v) where
  reg r hn := by
    cases r with
    | y => contradiction
    | a | x | sp => exact h.reg _ hn
  flag := h.flag
  control := { h.control with }

theorem setSp (h : CpuFrame rs fs s t) (v : Byte) (hr : .sp ∈ rs := by decide) : CpuFrame rs fs s (t.setSp v) where
  reg r hn := by
    cases r with
    | sp => contradiction
    | a | x | y => exact h.reg _ hn
  flag := h.flag
  control := { h.control with }

theorem setFlag {f : Flag} (h : CpuFrame rs fs s t) (b : Bool) (hf : f ∈ fs := by decide) :
    CpuFrame rs fs s (t.setFlag f b) where
  reg := h.reg
  flag g hn := by
    rw [State.flag_setFlag, if_neg (by rintro rfl; exact hn hf)]
    exact h.flag g hn
  control := { h.control with }

theorem setNZ (h : CpuFrame rs fs s t) (v : Byte) (hz : .z ∈ fs := by decide) (hn : .n ∈ fs := by decide) :
    CpuFrame rs fs s (t.setNZ v) :=
  (h.setFlag _ hz).setFlag _ hn

/-- An update of the whole of P. -/
theorem setP (h : CpuFrame rs fs s t) (v : Byte) (hf : ∀ f : Flag, f ∈ fs := by intro f; cases f <;> decide) :
    CpuFrame rs fs s (t.setP v) where
  reg := h.reg
  flag f hn := absurd (hf f) hn
  control := { h.control with }

theorem setPc (h : CpuFrame rs fs s t) (v : Addr) : CpuFrame rs fs s (t.setPc v) :=
  ⟨h.reg, h.flag, { h.control with }⟩

theorem setMem (h : CpuFrame rs fs s t) (v : Memory) : CpuFrame rs fs s (t.setMem v) :=
  ⟨h.reg, h.flag, { h.control with }⟩

theorem setVia (h : CpuFrame rs fs s t) (v : Via) : CpuFrame rs fs s (t.setVia v) :=
  ⟨h.reg, h.flag, { h.control with }⟩

theorem setAcia (h : CpuFrame rs fs s t) (v : Acia) : CpuFrame rs fs s (t.setAcia v) :=
  ⟨h.reg, h.flag, { h.control with }⟩

end CpuFrame

namespace RegisterEffect

variable {rs : List Reg} {fs : List Flag} {s t u : State}

theorem refl (rs : List Reg) (fs : List Flag) (s : State) : RegisterEffect rs fs s s s :=
  ⟨.refl rs fs s, rfl, sameMemory_refl s, sameDevices_refl s⟩

theorem setA (h : RegisterEffect rs fs s u t) (v : Byte) (hr : .a ∈ rs := by decide) :
    RegisterEffect rs fs s u (t.setA v) :=
  ⟨h.cpu.setA v hr, h.pc, h.memory, h.devices⟩

theorem setX (h : RegisterEffect rs fs s u t) (v : Byte) (hr : .x ∈ rs := by decide) :
    RegisterEffect rs fs s u (t.setX v) :=
  ⟨h.cpu.setX v hr, h.pc, h.memory, h.devices⟩

theorem setY (h : RegisterEffect rs fs s u t) (v : Byte) (hr : .y ∈ rs := by decide) :
    RegisterEffect rs fs s u (t.setY v) :=
  ⟨h.cpu.setY v hr, h.pc, h.memory, h.devices⟩

theorem setSp (h : RegisterEffect rs fs s u t) (v : Byte) (hr : .sp ∈ rs := by decide) :
    RegisterEffect rs fs s u (t.setSp v) :=
  ⟨h.cpu.setSp v hr, h.pc, h.memory, h.devices⟩

theorem setFlag {f : Flag} (h : RegisterEffect rs fs s u t) (b : Bool) (hf : f ∈ fs := by decide) :
    RegisterEffect rs fs s u (t.setFlag f b) :=
  ⟨h.cpu.setFlag b hf, h.pc, h.memory, h.devices⟩

theorem setNZ (h : RegisterEffect rs fs s u t) (v : Byte) (hz : .z ∈ fs := by decide) (hn : .n ∈ fs := by decide) :
    RegisterEffect rs fs s u (t.setNZ v) :=
  ⟨h.cpu.setNZ v hz hn, h.pc, h.memory, h.devices⟩

theorem setP (h : RegisterEffect rs fs s u t) (v : Byte) (hf : ∀ f : Flag, f ∈ fs := by intro f; cases f <;> decide) :
    RegisterEffect rs fs s u (t.setP v) :=
  ⟨h.cpu.setP v hf, h.pc, h.memory, h.devices⟩

/-- A transfer of control after an effect on registers and flags. -/
theorem setPc (h : RegisterEffect rs fs s u t) (target : Addr) : JumpEffect target rs fs s u (t.setPc target) :=
  ⟨h.cpu.setPc target, rfl, h.memory, h.devices⟩

end RegisterEffect

/-! ## Z and N -/

theorem getLsbD_seven (v : Byte) : v.getLsbD 7 = decide (128 ≤ v.toNat) := by
  rw [← BitVec.msb_eq_getLsbD_last, BitVec.msb_eq_decide]

theorem beq_zero_eq_decide (v : Byte) : (v == 0) = decide (v.toNat = 0) := by
  rw [beq_eq_decide, decide_eq_decide]
  exact BitVec.toNat_eq

theorem flagsNZ_setNZ (v : Byte) (s : State) : FlagsNZ v (s.setNZ v) := by
  simp only [FlagsNZ, State.flag_setNZ, reduceCtorEq, if_true, if_false]
  exact ⟨beq_zero_eq_decide v, getLsbD_seven v⟩

theorem FlagsNZ.setFlag {v : Byte} {t : State} (h : FlagsNZ v t) {f : Flag} (b : Bool) (hz : f ≠ .z := by decide)
    (hn : f ≠ .n := by decide) : FlagsNZ v (t.setFlag f b) := by
  simpa only [FlagsNZ, State.flag_setFlag, if_neg hz, if_neg hn] using h

/-! ## The read of an operand -/

/-- `u` is `s` after reads over the bus: only the devices may differ (20_memory.md R75). -/
def AfterRead (s u : State) : Prop := ∃ v c, u = (s.setVia v).setAcia c

theorem AfterRead.refl (s : State) : AfterRead s s := ⟨s.via, s.acia, rfl⟩

theorem AfterRead.trans {s t u : State} (h : AfterRead s t) (k : AfterRead t u) : AfterRead s u := by
  obtain ⟨v, c, rfl⟩ := h
  obtain ⟨v', c', rfl⟩ := k
  exact ⟨v', c', rfl⟩

theorem busRead_afterRead {a : Addr} {s u : State} {v : Byte} (h : busRead a s = .ok (v, u)) : AfterRead s u := by
  rcases busRead_cases h with ⟨-, -, rfl⟩ | ⟨-, -, rfl⟩ | ⟨-, -, rfl⟩
  · exact ⟨(s.via.read (.ofAddr a)).2, s.acia, rfl⟩
  · exact ⟨s.via, (s.acia.read s.config (.ofAddr a)).2, rfl⟩
  · exact .refl u

theorem AfterRead.cpuFrame {s u : State} (h : AfterRead s u) (rs : List Reg) (fs : List Flag) : CpuFrame rs fs s u := by
  obtain ⟨v, c, rfl⟩ := h
  exact ((CpuFrame.refl rs fs s).setVia v).setAcia c

theorem AfterRead.sameMemory {s u : State} (h : AfterRead s u) : SameMemory s u := by
  obtain ⟨v, c, rfl⟩ := h
  exact fun _ => rfl

theorem AfterRead.effect {s u : State} (h : AfterRead s u) (rs : List Reg) (fs : List Flag) :
    RegisterEffect rs fs s u u := by
  refine ⟨h.cpuFrame rs fs, ?_, h.sameMemory, sameDevices_refl u⟩
  obtain ⟨v, c, rfl⟩ := h
  rfl

theorem readSource_of_canRead {o : Source} {s : State} (h : s.canRead o) :
    ∃ v u, readSource o s = .ok (v, u) ∧ AfterRead s u := by
  cases o with
  | imm v => exact ⟨v, s, rfl, .refl s⟩
  | mem m =>
    obtain ⟨ea, hea, hm⟩ := h
    obtain ⟨v, u, hr⟩ := busRead_mapped hm
    refine ⟨v, u, ?_, busRead_afterRead hr⟩
    rw [readSource_mem, addressOf_of_effectiveAddress hea, hr]

/-! ## The shapes of instruction -/

/-- An instruction that reads its operand and then changes registers and flags completes on every readable operand. -/
theorem completesAfterRead {i : Instr} {o : Source} {s : State} (f : Byte → State → State)
    {post : Byte → State → State → Prop} (h : s.canRead o) (he : exec i s = withSource o f s)
    (hpost : ∀ v u, readSource o s = .ok (v, u) → AfterRead s u → post v u (f v u)) : CompletesAfterRead i o s post := by
  obtain ⟨v, u, hr, hu⟩ := readSource_of_canRead h
  exact ⟨v, u, f v u, hr, he.trans (withSource_of_ok hr f), hpost v u hr hu⟩

/-- A store at a mapped address completes, and only the byte there is written (40_load_store.md R143). -/
theorem store_completes {m : MemMode} {s : State} {ea : Addr} (hm : s.mem.wf) (hea : effectiveAddress m s = .ok (ea, s))
    (hmap : mapped s.config ea = true) (v : Byte) : ∃ t, store m v s = .next t ∧ WriteEffect ea v [] s s t := by
  obtain ⟨t, ht⟩ := busWrite_mapped v hmap
  refine ⟨t, ?_, busWrite_writeEffect hm ht []⟩
  rw [store_eq, addressOf_of_effectiveAddress hea, ht]
  rfl

theorem push_cpuFrame {v : Byte} {s t : State} (h : push v s = .ok t) : CpuFrame [.sp] [] s t ∧ t.pc = s.pc := by
  cases (push_eq v s).symm.trans h
  exact ⟨((CpuFrame.refl [.sp] [] s).setMem _).setSp _, rfl⟩

/-- A push of a register (41_transfer_stack.md R159). -/
theorem pushRegister_completes (v : Byte) {s : State} (hm : s.mem.wf) :
    ∃ t, pushRegister v s = .next t ∧ Pushed [v] s t ∧ CpuFrame [.sp] [] s t ∧ t.pc = s.pc := by
  obtain ⟨t, ht, hp⟩ := push_pushed v hm
  exact ⟨t, toOutcome_next.2 ht, hp, push_cpuFrame ht⟩

/-- A pull into registers and flags (41_transfer_stack.md R161). -/
theorem pullRegister_stacked (f : Byte → State → State) (s : State) :
    pullRegister f s = .next (f (s.stacked 1) (s.setSp (s.sp + 1))) := pullRegister_eq f s

/-- The flags that PLP and RTI load (41_transfer_stack.md R162, 46_system.md R251). -/
theorem flags_setP_statusPulled (v : Byte) (s : State) :
    (∀ f, f ≠ .b → f ≠ .u → (s.setP (statusPulled v)).flag f = v.getLsbD f.pos) ∧
    (s.setP (statusPulled v)).flag .b = false ∧ (s.setP (statusPulled v)).flag .u = true := by
  have hbits : ∀ x : Byte, (statusPulled x).getLsbD 4 = false ∧
      ∀ k < 8, k ≠ 4 → k ≠ 5 → (statusPulled x).getLsbD k = x.getLsbD k := by decide
  refine ⟨fun f hb hu => (hbits v).2 f.pos f.pos_lt ?_ ?_, (hbits v).1, flag_u_setP_statusPulled v s⟩
  · exact fun h => hb (Flag.pos_inj.1 h)
  · exact fun h => hu (Flag.pos_inj.1 h)

/-! ## The obligations -/

/-- Settles O14: the register and Z, N are set from the byte read. -/
theorem loads : Obligations.Loads := fun _ s h =>
  ⟨completesAfterRead (fun v s => (s.setA v).setNZ v) h rfl
      fun v _ _ hu => ⟨rfl, flagsNZ_setNZ v _, ((hu.effect _ _).setA v).setNZ v⟩,
    completesAfterRead (fun v s => (s.setX v).setNZ v) h rfl
      fun v _ _ hu => ⟨rfl, flagsNZ_setNZ v _, ((hu.effect _ _).setX v).setNZ v⟩,
    completesAfterRead (fun v s => (s.setY v).setNZ v) h rfl
      fun v _ _ hu => ⟨rfl, flagsNZ_setNZ v _, ((hu.effect _ _).setY v).setNZ v⟩⟩

/-- Settles O15: each is a store of its register, or of 0. -/
theorem stores : Obligations.Stores := fun _ s _ hm hea hmap =>
  ⟨store_completes hm hea hmap s.a, store_completes hm hea hmap s.x, store_completes hm hea hmap s.y,
    store_completes hm hea hmap 0x00⟩

/-- Settles O16. -/
theorem transfers : Obligations.Transfers := fun s =>
  have effect := RegisterEffect.refl
  ⟨⟨_, rfl, rfl, flagsNZ_setNZ _ _, ((effect _ _ s).setX s.a).setNZ s.a⟩,
    ⟨_, rfl, rfl, flagsNZ_setNZ _ _, ((effect _ _ s).setY s.a).setNZ s.a⟩,
    ⟨_, rfl, rfl, flagsNZ_setNZ _ _, ((effect _ _ s).setA s.x).setNZ s.x⟩,
    ⟨_, rfl, rfl, flagsNZ_setNZ _ _, ((effect _ _ s).setA s.y).setNZ s.y⟩,
    ⟨_, rfl, rfl, flagsNZ_setNZ _ _, ((effect _ _ s).setX s.sp).setNZ s.sp⟩,
    ⟨_, rfl, rfl, (effect _ _ s).setSp s.x⟩⟩

/-- Settles O17: each is a push of its byte. -/
theorem pushInstructions : Obligations.PushInstructions := fun s hm =>
  ⟨pushRegister_completes s.a hm, pushRegister_completes (s.p ||| 0x30) hm, pushRegister_completes s.x hm,
    pushRegister_completes s.y hm⟩

/-- Settles O18: the byte above SP goes into the register, or into P. -/
theorem pullInstructions : Obligations.PullInstructions := fun s =>
  have effect := fun rs fs hsp => (RegisterEffect.refl rs fs s).setSp (s.sp + 1) hsp
  have hp := flags_setP_statusPulled (s.stacked 1) (s.setSp (s.sp + 1))
  ⟨⟨_, pullRegister_stacked (fun v s => (s.setA v).setNZ v) s, rfl, flagsNZ_setNZ _ _, rfl,
      ((effect _ _ (by decide)).setA _).setNZ _⟩,
    ⟨_, pullRegister_stacked (fun v s => (s.setX v).setNZ v) s, rfl, flagsNZ_setNZ _ _, rfl,
      ((effect _ _ (by decide)).setX _).setNZ _⟩,
    ⟨_, pullRegister_stacked (fun v s => (s.setY v).setNZ v) s, rfl, flagsNZ_setNZ _ _, rfl,
      ((effect _ _ (by decide)).setY _).setNZ _⟩,
    ⟨_, pullRegister_stacked (fun v s => s.setP (statusPulled v)) s, hp.1, hp.2.1, hp.2.2, rfl,
      (effect _ _ (by decide)).setP _⟩⟩

end Sys2Proof.Machine
end

section
/-! Obligations O19, O20, O21, O22 and O23: arithmetic and compare, 42_arithmetic.md. First bytes as numbers, then what the binary
and the decimal sums and differences are, then ADC, SBC and the compares. -/

namespace Sys2Proof.Machine

/-! ## Bit 7 -/

theorem and_0x80_ne_zero (x : Byte) : (x &&& 0x80 != 0) = x.getLsbD 7 := by
  rw [show (0x80 : Byte) = BitVec.twoPow 8 7 from rfl, BitVec.and_twoPow]
  cases x.getLsbD 7 <;> rfl

theorem nat_and_0x80_ne_zero (n : Nat) : decide (n &&& 0x80 ≠ 0) = n.testBit 7 := by
  have h := Nat.and_two_pow n 7
  rw [show (2 ^ 7 : Nat) = 0x80 from rfl] at h
  rw [h]
  cases n.testBit 7 <;> rfl

/-- ADC's V on exact numbers: bit 7 of the sum is that of its byte (42_arithmetic.md R172). -/
theorem addOverflow_eq_nat (a m : Byte) (r : Nat) :
    ((a ^^^ BitVec.ofNat 8 r) &&& (m ^^^ BitVec.ofNat 8 r) &&& 0x80 != 0) =
      decide ((a.toNat ^^^ r) &&& (m.toNat ^^^ r) &&& 0x80 ≠ 0) := by
  rw [and_0x80_ne_zero, nat_and_0x80_ne_zero]
  have hr : (r % 256).testBit 7 = r.testBit 7 := (Nat.testBit_mod_two_pow r 8 7).trans (Bool.true_and _)
  simp [BitVec.getLsbD, Nat.testBit_and, Nat.testBit_xor, hr]

/-- SBC's V on exact numbers (42_arithmetic.md R173). -/
theorem subOverflow_eq_nat (a m r : Byte) :
    ((a ^^^ m) &&& (a ^^^ r) &&& 0x80 != 0) =
      decide ((a.toNat ^^^ m.toNat) &&& (a.toNat ^^^ r.toNat) &&& 0x80 ≠ 0) := by
  rw [and_0x80_ne_zero, nat_and_0x80_ne_zero]
  simp [BitVec.getLsbD, Nat.testBit_and, Nat.testBit_xor]

/-- A difference of bytes modulo 256, as a byte and as a number. -/
theorem ofInt_eq_ofNat_emod (r : Int) : BitVec.ofInt 8 r = BitVec.ofNat 8 (r % 256).toNat := by
  apply BitVec.eq_of_toNat_eq
  simp
  omega

theorem toNat_ofInt_byte (r : Int) : (BitVec.ofInt 8 r).toNat = (r % 256).toNat := by
  simp

/-! ## ADC and SBC -/

theorem decimalActive_eq_false {s : State} (h : s.config.decimalMode = .binary ∨ s.flag .d = false) :
    s.decimalActive = false := by
  rcases h with h | h <;> simp [State.decimalActive, h]

/-- The result and the four flags of ADC (42_arithmetic.md R172, R177). -/
theorem addToA_spec (m : Byte) (s : State) :
    (s.addToA m).flag .v = (addBinary s.a m (s.flag .c)).overflow ∧
    FlagsNZ (addBinary s.a m (s.flag .c)).value (s.addToA m) ∧
    (s.decimalActive = false → (s.addToA m).a = (addBinary s.a m (s.flag .c)).value ∧
      (s.addToA m).flag .c = (addBinary s.a m (s.flag .c)).carry) ∧
    (s.decimalActive = true → (s.addToA m).a = (addDecimal s.a m (s.flag .c)).1 ∧
      (s.addToA m).flag .c = (addDecimal s.a m (s.flag .c)).2) := by
  refine ⟨?_, ?_, fun h => ?_, fun h => ?_⟩
  · simp [State.addToA]
  · exact (flagsNZ_setNZ _ _).setFlag _
  · simp [State.addToA, h]
  · simp [State.addToA, h]

theorem RegisterEffect.addToA {s u t : State} (h : RegisterEffect [.a] [.n, .z, .c, .v] s u t) (m : Byte) :
    RegisterEffect [.a] [.n, .z, .c, .v] s u (t.addToA m) :=
  (((h.setFlag _).setNZ _).setFlag _).setA _

/-- The result and the four flags of SBC (42_arithmetic.md R173, R177). -/
theorem subFromA_spec (m : Byte) (s : State) :
    (s.subFromA m).flag .v = (subBinary s.a m (s.flag .c)).overflow ∧
    FlagsNZ (subBinary s.a m (s.flag .c)).value (s.subFromA m) ∧
    (s.subFromA m).flag .c = (subBinary s.a m (s.flag .c)).carry ∧
    (s.decimalActive = false → (s.subFromA m).a = (subBinary s.a m (s.flag .c)).value) ∧
    (s.decimalActive = true → (s.subFromA m).a = subDecimal s.a m (s.flag .c)) := by
  refine ⟨?_, ?_, ?_, fun h => ?_, fun h => ?_⟩
  · simp [State.subFromA]
  · exact (flagsNZ_setNZ _ _).setFlag _
  · simp [State.subFromA]
  · simp [State.subFromA, h]
  · simp [State.subFromA, h]

theorem RegisterEffect.subFromA {s u t : State} (h : RegisterEffect [.a] [.n, .z, .c, .v] s u t) (m : Byte) :
    RegisterEffect [.a] [.n, .z, .c, .v] s u (t.subFromA m) :=
  (((h.setFlag _).setNZ _).setFlag _).setA _

/-- Settles O19: the binary sum on exact numbers. -/
theorem adcResult : Obligations.AdcResult := by
  intro o s h
  refine completesAfterRead State.addToA h rfl fun v u _ hu => ?_
  have heffect := (hu.effect [.a] [.n, .z, .c, .v]).addToA v
  obtain ⟨hv, hnz, hbinary, -⟩ := addToA_spec v u
  obtain ⟨via, acia, rfl⟩ := hu
  refine ⟨hv.trans (addOverflow_eq_nat _ _ _), hnz, fun hd => ?_, heffect⟩
  obtain ⟨ha, hc⟩ := hbinary (decimalActive_eq_false hd)
  exact ⟨ha ▸ BitVec.toNat_ofNat _ _, hc⟩

/-- Settles O20: the binary difference on exact numbers. -/
theorem sbcResult : Obligations.SbcResult := by
  intro o s h
  refine completesAfterRead State.subFromA h rfl fun v u _ hu => ?_
  have heffect := (hu.effect [.a] [.n, .z, .c, .v]).subFromA v
  obtain ⟨hv, hnz, hc, hbinary, -⟩ := subFromA_spec v u
  obtain ⟨via, acia, rfl⟩ := hu
  refine ⟨?_, ?_, hc, fun hd => ?_, heffect⟩
  · rw [hv, ← toNat_ofInt_byte]
    exact subOverflow_eq_nat _ _ _
  · rw [← ofInt_eq_ofNat_emod]
    exact hnz
  · rw [hbinary (decimalActive_eq_false hd)]
    exact toNat_ofInt_byte _

/-! ## Signed overflow and complement -/

theorem toInt_byte (x : Byte) : x.toInt = if 128 ≤ x.toNat then (x.toNat : Int) - 256 else x.toNat := by
  rw [BitVec.toInt_eq_toNat_cond]
  split <;> split <;> omega

theorem bitNat_le_one (c : Bool) : bitNat c ≤ 1 := by cases c <;> decide

/-- V of the binary sum is signed overflow (42_arithmetic.md R178). -/
theorem addBinary_overflow (a m : Byte) (c : Bool) : (addBinary a m c).overflow =
    decide (a.toInt + m.toInt + bitNat c < -128 ∨ 127 < a.toInt + m.toInt + bitNat c) := by
  have hr : (BitVec.ofNat 8 (a.toNat + m.toNat + bitNat c)).toNat = (a.toNat + m.toNat + bitNat c) % 256 :=
    BitVec.toNat_ofNat _ _
  have hc := bitNat_le_one c
  have ha := a.isLt
  have hm := m.isLt
  simp only [addBinary, and_0x80_ne_zero, BitVec.getLsbD_and, BitVec.getLsbD_xor]
  simp only [getLsbD_seven, toInt_byte, hr]
  by_cases h₁ : 128 ≤ a.toNat <;> by_cases h₂ : 128 ≤ m.toNat <;>
    by_cases h₃ : 128 ≤ (a.toNat + m.toNat + bitNat c) % 256 <;> simp [h₁, h₂, h₃] <;> omega

/-- V of the binary difference is signed overflow (42_arithmetic.md R178). -/
theorem subBinary_overflow (a m : Byte) (c : Bool) : (subBinary a m c).overflow =
    decide (a.toInt - m.toInt - (1 - bitNat c) < -128 ∨ 127 < a.toInt - m.toInt - (1 - bitNat c)) := by
  have hr := toNat_ofInt_byte ((a.toNat : Int) - m.toNat - (1 - bitNat c))
  have hc := bitNat_le_one c
  have ha := a.isLt
  have hm := m.isLt
  simp only [subBinary, and_0x80_ne_zero, BitVec.getLsbD_and, BitVec.getLsbD_xor]
  simp only [getLsbD_seven, toInt_byte, hr]
  by_cases h₁ : 128 ≤ a.toNat <;> by_cases h₂ : 128 ≤ m.toNat <;>
    by_cases h₃ : 128 ≤ (((a.toNat : Int) - m.toNat - (1 - bitNat c)) % 256).toNat <;> simp [h₁, h₂, h₃] <;> omega

theorem toNat_xor_0xFF (m : Byte) : (m ^^^ 0xFF).toNat = 255 - m.toNat := by
  rw [show m ^^^ 0xFF = ~~~m from BitVec.xor_allOnes, BitVec.toNat_not]

/-- The binary difference is the sum with the complement (42_arithmetic.md R173). -/
theorem subBinary_eq_addBinary (a m : Byte) (c : Bool) : subBinary a m c = addBinary a (m ^^^ 0xFF) c := by
  have hm := m.isLt
  have hvalue : BitVec.ofInt 8 ((a.toNat : Int) - m.toNat - (1 - bitNat c)) =
      BitVec.ofNat 8 (a.toNat + (m ^^^ 0xFF).toNat + bitNat c) := by
    apply BitVec.eq_of_toNat_eq
    rw [toNat_ofInt_byte, BitVec.toNat_ofNat, toNat_xor_0xFF]
    omega
  have hoverflow : ∀ a m r : Byte,
      ((a ^^^ m) &&& (a ^^^ r) &&& 0x80 != 0) = ((a ^^^ r) &&& (m ^^^ 0xFF ^^^ r) &&& 0x80 != 0) := fun a m r => by
    rw [and_0x80_ne_zero, and_0x80_ne_zero]
    simp only [BitVec.getLsbD_and, BitVec.getLsbD_xor, show (0xFF : Byte).getLsbD 7 = true from rfl]
    cases a.getLsbD 7 <;> cases m.getLsbD 7 <;> cases r.getLsbD 7 <;> rfl
  simp only [subBinary, addBinary, hvalue, hoverflow, toNat_xor_0xFF, AluResult.mk.injEq, true_and, and_true,
    decide_eq_decide]
  omega

/-- Settles O21: signed overflow of the binary sum and difference, and the difference as the sum with the complement. -/
theorem signedOverflowAndComplement : Obligations.SignedOverflowAndComplement := by
  intro v s
  refine ⟨⟨s.addToA v, rfl, ?_⟩, ⟨s.subFromA v, rfl, ?_⟩, fun hd => ⟨s.subFromA v, rfl, ?_⟩⟩
  · exact (addToA_spec v s).1.trans (addBinary_overflow s.a v (s.flag .c))
  · exact (subFromA_spec v s).1.trans (subBinary_overflow s.a v (s.flag .c))
  · have hd := decimalActive_eq_false hd
    show Host.Outcome.next (s.addToA (v ^^^ 0xFF)) = .next (s.subFromA v)
    simp [State.addToA, State.subFromA, hd, subBinary_eq_addBinary]

/-! ## Decimal arithmetic -/

theorem validBcd_iff {v : Byte} : validBcd v = true ↔ v.toNat % 16 ≤ 9 ∧ v.toNat / 16 ≤ 9 := by
  simp [validBcd]

theorem bcd_of_toNat {v : Byte} {h l : Nat} (hh : h ≤ 9) (hl : l ≤ 9) (hv : v.toNat = 16 * h + l) :
    validBcd v = true ∧ bcdValue v = 10 * h + l := by
  rw [validBcd_iff, bcdValue, hv]
  omega

/-- Adding two digits: the adjusted low digit is the decimal one, its carry in bit 4. -/
theorem addDigit_adjust {n : Nat} (h : n ≤ 19) :
    (if n ≥ 0x0A then (n + 0x06) % 16 + 0x10 else n) = 16 * (n / 10) + n % 10 := by
  split <;> omega

/-- The adjusted sum of the high digits and the carry out of it. -/
theorem addHigh_adjust {h l : Nat} (hh : h ≤ 19) (hl : l ≤ 9) :
    (if 16 * h + l ≥ 0xA0 then 16 * h + l + 0x60 else 16 * h + l) % 2 ^ 8 = 16 * (h % 10) + l ∧
    ((if 16 * h + l ≥ 0xA0 then 16 * h + l + 0x60 else 16 * h + l) ≥ 0x100 ↔ 10 ≤ h) := by
  split <;> omega

/-- The adjusted difference of the high digits. -/
theorem subHigh_adjust {h l : Int} (hh : -10 ≤ h) (hh' : h ≤ 9) (hl : 0 ≤ l) (hl' : l ≤ 9) :
    (if 16 * h + l < 0 then 16 * h + l - 0x60 else 16 * h + l) % 256 = 16 * (h % 10) + l := by
  split <;> omega

/-- Subtracting two digits: the adjusted low digit is the decimal one, its borrow in the bits above. -/
theorem subDigit_adjust {n : Int} (h : -10 ≤ n) (h' : n ≤ 9) :
    (if n < 0 then (n - 0x06) % 16 - 0x10 else n) = 16 * (n / 10) + n % 10 := by
  split <;> omega

/-- The formula of ADC on decimal digits (42_arithmetic.md R177). -/
theorem addDecimalFormula_spec {a m : Byte} (ha : validBcd a = true) (hm : validBcd m = true) (c : Bool) :
    validBcd (addDecimalFormula a m c).1 = true ∧
    bcdValue (addDecimalFormula a m c).1 = (bcdValue a + bcdValue m + bitNat c) % 100 ∧
    (addDecimalFormula a m c).2 = decide (100 ≤ bcdValue a + bcdValue m + bitNat c) := by
  have hc := bitNat_le_one c
  rw [validBcd_iff] at ha hm
  obtain ⟨n, hn⟩ : ∃ n, n = a.toNat % 16 + m.toNat % 16 + bitNat c := ⟨_, rfl⟩
  have hlow := addDigit_adjust (n := n) (by omega)
  have hsum : a.toNat / 16 * 16 + m.toNat / 16 * 16 + (16 * (n / 10) + n % 10) =
      16 * (a.toNat / 16 + m.toNat / 16 + n / 10) + n % 10 := by omega
  obtain ⟨hhigh, hcarry⟩ := addHigh_adjust (h := a.toNat / 16 + m.toNat / 16 + n / 10) (l := n % 10) (by omega) (by omega)
  simp only [addDecimalFormula, ← hn, hlow, hsum, hcarry]
  obtain ⟨hvalid, hbcd⟩ := bcd_of_toNat (by omega) (by omega) ((BitVec.toNat_ofNat _ 8).trans hhigh)
  rw [hbcd, decide_eq_decide]
  exact ⟨hvalid, by simp only [bcdValue]; omega, by simp only [bcdValue]; omega⟩

/-- The formula of SBC on decimal digits (42_arithmetic.md R177). -/
theorem subDecimalFormula_spec {a m : Byte} (ha : validBcd a = true) (hm : validBcd m = true) (c : Bool) :
    validBcd (subDecimalFormula a m c) = true ∧
    bcdValue (subDecimalFormula a m c) = (bcdValue a + 100 - bcdValue m - (1 - bitNat c)) % 100 := by
  have hc := bitNat_le_one c
  rw [validBcd_iff] at ha hm
  obtain ⟨n, hn⟩ : ∃ n : Int, n = (a.toNat % 16 : Nat) - (m.toNat % 16 : Nat) + bitNat c - 1 := ⟨_, rfl⟩
  have hlow := subDigit_adjust (n := n) (by omega) (by omega)
  have hdiff : ((a.toNat / 16 * 16 : Nat) : Int) - (m.toNat / 16 * 16 : Nat) + (16 * (n / 10) + n % 10) =
      16 * ((a.toNat / 16 : Nat) - (m.toNat / 16 : Nat) + n / 10) + n % 10 := by omega
  have hhigh := subHigh_adjust (h := (a.toNat / 16 : Nat) - (m.toNat / 16 : Nat) + n / 10) (l := n % 10)
    (by omega) (by omega) (by omega) (by omega)
  have hvalue : (subDecimalFormula a m c).toNat =
      16 * (((a.toNat / 16 : Nat) - (m.toNat / 16 : Nat) + n / 10) % 10).toNat + (n % 10).toNat := by
    simp only [subDecimalFormula, ← hn, hlow, hdiff, toNat_ofInt_byte, hhigh]
    omega
  obtain ⟨hvalid, hbcd⟩ := bcd_of_toNat (by omega) (by omega) hvalue
  rw [hbcd]
  exact ⟨hvalid, by simp only [bcdValue]; omega⟩

/-- The binary difference's "no borrow" is the decimal one's on decimal digits. -/
theorem subBinary_carry_bcd {a m : Byte} (ha : validBcd a = true) (hm : validBcd m = true) (c : Bool) :
    (subBinary a m c).carry = decide (bcdValue m + (1 - bitNat c) ≤ bcdValue a) := by
  have hc := bitNat_le_one c
  rw [validBcd_iff] at ha hm
  exact decide_eq_decide.2 (by simp only [bcdValue]; omega)

/-- Settles O22: on decimal digits the two formulas are decimal addition and subtraction. -/
theorem decimalArithmetic : Obligations.DecimalArithmetic := by
  intro o s h hmode hd ha
  have hactive : s.decimalActive = true := by simp [State.decimalActive, hmode, hd]
  refine ⟨completesAfterRead State.addToA h rfl fun v u _ hu hv => ?_,
    completesAfterRead State.subFromA h rfl fun v u _ hu hv => ?_⟩
  · obtain ⟨-, -, -, hdecimal⟩ := addToA_spec v u
    obtain ⟨via, acia, rfl⟩ := hu
    obtain ⟨hA, hC⟩ := hdecimal hactive
    have heq : addDecimal s.a v (s.flag .c) = addDecimalFormula s.a v (s.flag .c) := by simp [addDecimal, ha, hv]
    rw [hA, hC]
    exact heq ▸ addDecimalFormula_spec ha hv (s.flag .c)
  · obtain ⟨-, -, hC, -, hdecimal⟩ := subFromA_spec v u
    obtain ⟨via, acia, rfl⟩ := hu
    have heq : subDecimal s.a v (s.flag .c) = subDecimalFormula s.a v (s.flag .c) := by simp [subDecimal, ha, hv]
    rw [hdecimal hactive, hC]
    obtain ⟨hvalid, hvalue⟩ := subDecimalFormula_spec ha hv (s.flag .c)
    exact ⟨heq ▸ hvalid, heq ▸ hvalue, subBinary_carry_bcd ha hv (s.flag .c)⟩

/-! ## Compares -/

/-- The three flags of a compare (42_arithmetic.md R174). -/
theorem compare_flags (r m : Byte) (s : State) :
    (s.compare r m).flag .c = decide (m.toNat ≤ r.toNat) ∧ (s.compare r m).flag .z = decide (r = m) ∧
    (s.compare r m).flag .n = decide (128 ≤ (r.toNat + 256 - m.toNat) % 256) := by
  have hr := r.isLt
  have hm := m.isLt
  simp only [State.compare, State.flag_setNZ, State.flag_setFlag, reduceCtorEq, if_true, if_false, getLsbD_seven,
    beq_zero_eq_decide, toNat_ofInt_byte, decide_eq_decide, ← BitVec.toNat_inj]
  omega

theorem RegisterEffect.compare {s u t : State} (h : RegisterEffect [] [.c, .z, .n] s u t) (r m : Byte) :
    RegisterEffect [] [.c, .z, .n] s u (t.compare r m) :=
  (h.setFlag _).setNZ _

/-- What a compare with a register leaves. -/
theorem compare_effect (r v : Byte) {s u : State} (hu : AfterRead s u) :
    (u.compare r v).flag .c = decide (v.toNat ≤ r.toNat) ∧ (u.compare r v).flag .z = decide (r = v) ∧
    (u.compare r v).flag .n = decide (128 ≤ (r.toNat + 256 - v.toNat) % 256) ∧
    RegisterEffect [] [.c, .z, .n] s u (u.compare r v) := by
  obtain ⟨hc, hz, hn⟩ := compare_flags r v u
  exact ⟨hc, hz, hn, (hu.effect _ _).compare r v⟩

/-- Settles O23: each compares its register with the byte read. -/
theorem compares : Obligations.Compares := by
  intro o s h
  refine ⟨completesAfterRead (fun v s => s.compare s.a v) h rfl fun v u _ hu => ?_,
    completesAfterRead (fun v s => s.compare s.x v) h rfl fun v u _ hu => ?_,
    completesAfterRead (fun v s => s.compare s.y v) h rfl fun v u _ hu => ?_⟩
  · rw [show u.a = s.a from (hu.cpuFrame [] []).reg .a nofun]
    exact compare_effect s.a v hu
  · rw [show u.x = s.x from (hu.cpuFrame [] []).reg .x nofun]
    exact compare_effect s.x v hu
  · rw [show u.y = s.y from (hu.cpuFrame [] []).reg .y nofun]
    exact compare_effect s.y v hu

end Sys2Proof.Machine
end

section
/-! Obligations O24, O25, O26, O27, O28 and O29: logic, shifts, bit manipulation, increments and flag instructions,
43_logic_shift.md and 44_incdec_flags.md. A read-modify-write is proved once, over the function that gives its byte and flags. -/

namespace Sys2Proof.Machine

/-! ## Logic and BIT -/

/-- What AND, ORA and EOR leave: the combined byte in A, Z and N of it. -/
theorem setA_setNZ_effect (r : Byte) {s u : State} (hu : AfterRead s u) :
    FlagsNZ ((u.setA r).setNZ r).a ((u.setA r).setNZ r) ∧ RegisterEffect [.a] [.z, .n] s u ((u.setA r).setNZ r) :=
  ⟨flagsNZ_setNZ r _, ((hu.effect _ _).setA r).setNZ r⟩

/-- BIT where it sets N, V and Z (43_logic_shift.md R183). -/
theorem testNV_effect (v : Byte) {s u : State} (hu : AfterRead s u) :
    ((u.testZ v).testNV v).flag .z = (s.a &&& v == 0) ∧ ((u.testZ v).testNV v).flag .n = v.getLsbD 7 ∧
    ((u.testZ v).testNV v).flag .v = v.getLsbD 6 ∧ RegisterEffect [] [.z, .n, .v] s u ((u.testZ v).testNV v) := by
  have heffect := (((hu.effect [] [.z, .n, .v]).setFlag (f := .z) (u.a &&& v == 0)).setFlag (f := .n)
    (v.getLsbD 7)).setFlag (f := .v) (v.getLsbD 6)
  obtain ⟨via, acia, rfl⟩ := hu
  exact ⟨by simp [State.testZ, State.testNV], by simp [State.testNV], by simp [State.testNV], heffect⟩

/-- BIT where it sets Z alone (43_logic_shift.md R183). -/
theorem testZ_effect (v : Byte) {s u : State} (hu : AfterRead s u) :
    (u.testZ v).flag .z = (s.a &&& v == 0) ∧ RegisterEffect [] [.z] s u (u.testZ v) := by
  have heffect := (hu.effect [] [.z]).setFlag (f := .z) (u.a &&& v == 0)
  obtain ⟨via, acia, rfl⟩ := hu
  exact ⟨by simp [State.testZ], heffect⟩

theorem execBit_zOnly {v : Byte} {s : State} (h : s.config.bitImmFlags = .zOnly) :
    exec (.bit (.imm v)) s = withSource (.imm v) (fun v s => s.testZ v) s := by
  show execBit (.imm v) s = _
  simp only [execBit, h]

theorem execBit_nvz {o : Source} {s : State} (h : ∀ v, ¬ (o = .imm v ∧ s.config.bitImmFlags = .zOnly)) :
    exec (.bit o) s = withSource o (fun v s => (s.testZ v).testNV v) s := by
  show execBit o s = _
  cases o with
  | mem m => rfl
  | imm v =>
    cases hflags : s.config.bitImmFlags with
    | zOnly => exact absurd ⟨rfl, hflags⟩ (h v)
    | nvz => simp only [execBit, hflags]

theorem bit_completes {o : Source} {s : State} (h : s.canRead o) :
    CompletesAfterRead (.bit o) o s (fun v u t =>
      t.flag .z = (s.a &&& v == 0) ∧
      (if o = .imm v ∧ s.config.bitImmFlags = .zOnly then RegisterEffect [] [.z] s u t
       else t.flag .n = v.getLsbD 7 ∧ t.flag .v = v.getLsbD 6 ∧ RegisterEffect [] [.z, .n, .v] s u t)) := by
  by_cases himm : ∃ w, o = .imm w ∧ s.config.bitImmFlags = .zOnly
  · obtain ⟨w, rfl, hflags⟩ := himm
    refine completesAfterRead (fun v s => s.testZ v) h (execBit_zOnly hflags) fun v u hr hu => ?_
    obtain ⟨rfl, rfl⟩ : w = v ∧ s = u := by simpa [readSource] using hr
    obtain ⟨hz, heffect⟩ := testZ_effect w hu
    exact ⟨hz, by rwa [if_pos ⟨rfl, hflags⟩]⟩
  · have himm := not_exists.1 himm
    refine completesAfterRead (fun v s => (s.testZ v).testNV v) h (execBit_nvz himm) fun v u _ hu => ?_
    obtain ⟨hz, hrest⟩ := testNV_effect v hu
    exact ⟨hz, by rwa [if_neg (himm v)]⟩

/-- Settles O24: each combines A with the byte read; BIT by the case of its flags. -/
theorem logicAndBit : Obligations.LogicAndBit := by
  intro o s h
  refine ⟨completesAfterRead (fun v s => (s.setA (s.a &&& v)).setNZ (s.a &&& v)) h rfl fun v u _ hu => ⟨fun k => ?_, ?_⟩,
    completesAfterRead (fun v s => (s.setA (s.a ||| v)).setNZ (s.a ||| v)) h rfl fun v u _ hu => ⟨fun k => ?_, ?_⟩,
    completesAfterRead (fun v s => (s.setA (s.a ^^^ v)).setNZ (s.a ^^^ v)) h rfl fun v u _ hu => ⟨fun k => ?_, ?_⟩,
    bit_completes h⟩
  · rw [← show u.a = s.a from (hu.cpuFrame [] []).reg .a nofun]
    exact BitVec.getLsbD_and
  · exact setA_setNZ_effect _ hu
  · rw [← show u.a = s.a from (hu.cpuFrame [] []).reg .a nofun]
    exact BitVec.getLsbD_or
  · exact setA_setNZ_effect _ hu
  · rw [← show u.a = s.a from (hu.cpuFrame [] []).reg .a nofun]
    exact BitVec.getLsbD_xor
  · exact setA_setNZ_effect _ hu

/-! ## Read-modify-write -/

/-- A modification changes nothing of the state but P. -/
def ChangesOnlyP (f : Byte → State → Byte × State) : Prop := ∀ v s, ∃ p, (f v s).2 = s.setP p

theorem WrittenAt.of_setP {ea : Addr} {v p : Byte} {s t : State} (h : WrittenAt ea v (s.setP p) t) :
    WrittenAt ea v s t :=
  ⟨h.elsewhere, h.ram, h.rom, h.via, h.acia⟩

/-- A read-modify-write of memory at a mapped address completes: its byte is written there once, its flags are set, and nothing
else changes (43_logic_shift.md). -/
theorem completesModify {i : Instr} {m : MemMode} {f : Byte → State → Byte × State} (fs : List Flag) {s : State} {ea : Addr}
    {post : Byte → State → State → Prop} (hm : s.mem.wf) (hea : effectiveAddress m s = .ok (ea, s))
    (hmap : mapped s.config ea = true) (he : exec i s = modifyMemory m f s) (hp : ChangesOnlyP f)
    (hf : ∀ v u, CpuFrame [] fs u (f v u).2)
    (hpost : ∀ v u t, AfterRead s u → (∀ g, t.flag g = (f v u).2.flag g) → WriteEffect ea (f v u).1 fs s u t → post v u t) :
    CompletesModify i ea s post := by
  obtain ⟨v, u, hr⟩ := busRead_mapped hmap
  have hu := busRead_afterRead hr
  obtain ⟨p, hp⟩ := hp v u
  have huc : (f v u).2.config = s.config := (hf v u).control.config.trans (hu.cpuFrame [] []).control.config
  obtain ⟨t, ht⟩ := busWrite_mapped (s := (f v u).2) (f v u).1 (huc ▸ hmap)
  have hwf : (f v u).2.mem.wf := by
    rw [hp]
    obtain ⟨via, acia, rfl⟩ := hu
    exact hm
  have hpc : t.pc = s.pc := (busWrite_pc ht).trans (by rw [hp]; exact (hu.effect [] []).pc)
  have hwritten : WrittenAt ea (f v u).1 u t := by
    have h := busWrite_writtenAt hwf ht
    rw [hp] at h
    exact h.of_setP
  refine ⟨v, u, t, hr, ?_, hpost v u t hu (fun g => (busWrite_cpuFrame ht [] []).flag g nofun)
    ⟨((hu.cpuFrame [] fs).trans (hf v u)).trans (busWrite_cpuFrame ht [] fs), hpc, hu.sameMemory, hwritten⟩⟩
  have haddr := addressOf_of_effectiveAddress hea
  rw [he, modifyMemory_of_ok (by rwa [haddr]), haddr, ht]
  rfl

theorem FlagsNZ.of_flag {v : Byte} {s t : State} (h : FlagsNZ v s) (hflag : ∀ g, t.flag g = s.flag g) : FlagsNZ v t :=
  ⟨(hflag .z).trans h.1, (hflag .n).trans h.2⟩

/-! ## Shifts -/

/-- The state a shift leaves: C is the bit shifted out, Z and N are of the result. -/
def State.shifted (r : Nat) (c : Bool) (s : State) : State := (s.setFlag .c c).setNZ (BitVec.ofNat 8 r)

theorem State.shifted_eq (r : Nat) (c : Bool) (s : State) :
    s.shifted r c = (s.setFlag .c c).setNZ (BitVec.ofNat 8 r) := rfl

theorem State.carryIn_eq (s : State) : s.carryIn = if s.flag .c then 1 else 0 := rfl

theorem flagsNZ_shifted (r : Nat) (c : Bool) (s : State) : FlagsNZ (BitVec.ofNat 8 r) (s.shifted r c) := flagsNZ_setNZ _ _

theorem flag_c_shifted (r : Nat) (c : Bool) (s : State) : (s.shifted r c).flag .c = c := by
  rw [State.shifted_eq]
  simp

theorem shiftLeft_byte (v : Byte) : v <<< 1 = BitVec.ofNat 8 (2 * v.toNat % 256) := by
  apply BitVec.eq_of_toNat_eq
  simp
  omega

theorem shiftRight_byte (v : Byte) : v >>> 1 = BitVec.ofNat 8 (v.toNat / 2) := by
  apply BitVec.eq_of_toNat_eq
  simp
  omega

theorem rotateLeft_byte (v : Byte) (c : Bool) :
    setBit (v <<< 1) 0 c = BitVec.ofNat 8 ((2 * v.toNat + if c then 1 else 0) % 256) := by
  revert v c
  decide

theorem rotateRight_byte (v : Byte) (c : Bool) :
    setBit (v >>> 1) 7 c = BitVec.ofNat 8 (v.toNat / 2 + 128 * if c then 1 else 0) := by
  revert v c
  decide

theorem getLsbD_zero_byte (v : Byte) : v.getLsbD 0 = decide (v.toNat % 2 = 1) := by
  simp [BitVec.getLsbD, Nat.testBit_zero]

theorem aslByte_eq (v : Byte) (s : State) : aslByte v s =
    (BitVec.ofNat 8 (2 * v.toNat % 256), s.shifted (2 * v.toNat % 256) (decide (128 ≤ v.toNat))) := by
  simp only [aslByte, State.shifted_eq, shiftLeft_byte, getLsbD_seven]

theorem lsrByte_eq (v : Byte) (s : State) : lsrByte v s =
    (BitVec.ofNat 8 (v.toNat / 2), s.shifted (v.toNat / 2) (decide (v.toNat % 2 = 1))) := by
  simp only [lsrByte, State.shifted_eq, shiftRight_byte, getLsbD_zero_byte]

theorem rolByte_eq (v : Byte) (s : State) : rolByte v s =
    (BitVec.ofNat 8 ((2 * v.toNat + s.carryIn) % 256),
      s.shifted ((2 * v.toNat + s.carryIn) % 256) (decide (128 ≤ v.toNat))) := by
  simp only [rolByte, State.shifted_eq, State.carryIn_eq, rotateLeft_byte, getLsbD_seven]

theorem rorByte_eq (v : Byte) (s : State) : rorByte v s =
    (BitVec.ofNat 8 (v.toNat / 2 + 128 * s.carryIn),
      s.shifted (v.toNat / 2 + 128 * s.carryIn) (decide (v.toNat % 2 = 1))) := by
  simp only [rorByte, State.shifted_eq, State.carryIn_eq, rotateRight_byte, getLsbD_zero_byte]

theorem carryIn_le_one (s : State) : s.carryIn ≤ 1 := by
  rw [State.carryIn_eq]
  split <;> decide

/-- A shift of A, by the equation of its byte. -/
theorem shift_acc {i : Instr} {f : Byte → State → Byte × State} {s : State} {r : Nat} {c : Bool}
    (he : exec i s = modify .acc f s) (hf : f s.a s = (BitVec.ofNat 8 r, s.shifted r c)) (hr : r < 256) :
    Completes i s (fun t => t.a.toNat = r ∧ t.flag .c = c ∧ FlagsNZ t.a t ∧ RegisterEffect [.a] [.c, .z, .n] s s t) := by
  refine ⟨(s.shifted r c).setA (BitVec.ofNat 8 r), ?_, ?_, flag_c_shifted r c s, flagsNZ_shifted r c s, ?_⟩
  · rw [he, modify, hf]
  · exact (BitVec.toNat_ofNat r 8).trans (Nat.mod_eq_of_lt hr)
  · exact (((RegisterEffect.refl _ _ s).setFlag c).setNZ _).setA _

/-- A shift of memory, by the equation of its byte; the rotations' C is that of before. -/
theorem shift_mem {i : Instr} {f : Byte → State → Byte × State} {m : MemMode} {s : State} {ea : Addr} {r : Nat → Nat → Nat}
    {c : Byte → Bool} (hm : s.mem.wf) (hea : effectiveAddress m s = .ok (ea, s)) (hmap : mapped s.config ea = true)
    (he : exec i s = modifyMemory m f s)
    (hf : ∀ v u, f v u = (BitVec.ofNat 8 (r v.toNat u.carryIn), u.shifted (r v.toNat u.carryIn) (c v))) :
    CompletesModify i ea s (fun v u t => t.flag .c = c v ∧ FlagsNZ (BitVec.ofNat 8 (r v.toNat s.carryIn)) t ∧
      WriteEffect ea (BitVec.ofNat 8 (r v.toNat s.carryIn)) [.c, .z, .n] s u t) := by
  refine completesModify [.c, .z, .n] hm hea hmap he (fun v u => ?_) (fun v u => ?_) fun v u t hu hflag hwrite => ?_
  · rw [hf]
    exact ⟨_, rfl⟩
  · rw [hf]
    exact ((CpuFrame.refl _ _ u).setFlag _).setNZ _
  · have hc : u.carryIn = s.carryIn := by
      obtain ⟨via, acia, rfl⟩ := hu
      rfl
    rw [hf, hc] at hflag hwrite
    exact ⟨(hflag .c).trans (flag_c_shifted _ _ _), (flagsNZ_shifted _ _ _).of_flag hflag, hwrite⟩

/-- Settles O25. -/
theorem shiftAccumulator : Obligations.ShiftAccumulator := fun s =>
  have ha := s.a.isLt
  have hc := carryIn_le_one s
  ⟨shift_acc rfl (aslByte_eq s.a s) (by omega), shift_acc rfl (lsrByte_eq s.a s) (by omega),
    shift_acc rfl (rolByte_eq s.a s) (by omega), shift_acc rfl (rorByte_eq s.a s) (by omega)⟩

/-- Settles O26. -/
theorem shiftMemory : Obligations.ShiftMemory := fun _ _ _ hm hea hmap =>
  ⟨shift_mem (r := fun v _ => 2 * v % 256) hm hea hmap rfl aslByte_eq,
    shift_mem (r := fun v _ => v / 2) hm hea hmap rfl lsrByte_eq,
    shift_mem (r := fun v c => (2 * v + c) % 256) hm hea hmap rfl rolByte_eq,
    shift_mem (r := fun v c => v / 2 + 128 * c) hm hea hmap rfl rorByte_eq⟩

/-! ## Bits of memory -/

/-- TRB and TSB: Z from A AND M before, the byte by `g` (43_logic_shift.md R188, R189). -/
theorem testAndModify {i : Instr} {m : MemMode} {s : State} {ea : Addr} (g : Byte → Byte → Byte) (hm : s.mem.wf)
    (hea : effectiveAddress m s = .ok (ea, s)) (hmap : mapped s.config ea = true)
    (he : exec i s = modifyMemory m (fun v s => (g v s.a, s.testZ v)) s) :
    CompletesModify i ea s (fun v u t => t.flag .z = decide (s.a &&& v = 0) ∧ WriteEffect ea (g v s.a) [.z] s u t) := by
  refine completesModify [.z] hm hea hmap he (fun _ _ => ⟨_, rfl⟩) (fun v u => (CpuFrame.refl _ _ u).setFlag _)
    fun v u t hu hflag hwrite => ?_
  obtain ⟨via, acia, rfl⟩ := hu
  refine ⟨(hflag .z).trans ?_, hwrite⟩
  simp only [State.testZ, State.flag_setFlag, if_true]
  exact beq_eq_decide _ _

/-- RMBn and SMBn: a zero-page byte, no flag (43_logic_shift.md R190, R191). -/
theorem modifyZeroPage {i : Instr} {z : Byte} {s : State} {g : Byte → Byte} {bits : Byte → Nat → Bool} (hm : s.mem.wf)
    (he : exec i s = modifyMemory (.zp z) (fun v s => (g v, s)) s) (hg : ∀ v k, (g v).getLsbD k = bits v k) :
    CompletesModify i (zext16 z) s (fun v u t =>
      ∃ w : Byte, (∀ k, w.getLsbD k = bits v k) ∧ WriteEffect (zext16 z) w [] s u t) :=
  completesModify [] hm rfl (mapped_of_plain _ (isPlain_of_ram (isRam_zext16 z))) he (fun _ u => ⟨u.p, rfl⟩)
    (fun _ u => .refl _ _ u) fun v _ _ _ _ hwrite => ⟨g v, hg v, hwrite⟩

theorem getLsbD_clear_bitMask {n : Nat} (hn : n < 8) (v : Byte) (k : Nat) :
    (v &&& ~~~bitMask n).getLsbD k = (v.getLsbD k && k != n) := by
  rw [show v &&& ~~~bitMask n = setBit v n false from rfl, getLsbD_setBit _ _ _ _ hn]
  split
  · next h => simp [h]
  · next h => simp [Ne.symm h]

theorem getLsbD_set_bitMask {n : Nat} (hn : n < 8) (v : Byte) (k : Nat) :
    (v ||| bitMask n).getLsbD k = (v.getLsbD k || k == n) := by
  rw [show v ||| bitMask n = setBit v n true from rfl, getLsbD_setBit _ _ _ _ hn]
  split
  · next h => simp [h]
  · next h => simp [Ne.symm h]

theorem rmb_completes {i : Instr} {n : Nat} {z : Byte} {s : State} (hm : s.mem.wf) (hn : n < 8)
    (he : exec i s = modifyMemory (.zp z) (rmbByte n) s) :
    CompletesModify i (zext16 z) s (fun v u t =>
      ∃ w : Byte, (∀ k, w.getLsbD k = (v.getLsbD k && k != n)) ∧ WriteEffect (zext16 z) w [] s u t) :=
  modifyZeroPage hm he (getLsbD_clear_bitMask hn)

theorem smb_completes {i : Instr} {n : Nat} {z : Byte} {s : State} (hm : s.mem.wf) (hn : n < 8)
    (he : exec i s = modifyMemory (.zp z) (smbByte n) s) :
    CompletesModify i (zext16 z) s (fun v u t =>
      ∃ w : Byte, (∀ k, w.getLsbD k = (v.getLsbD k || k == n)) ∧ WriteEffect (zext16 z) w [] s u t) :=
  modifyZeroPage hm he (getLsbD_set_bitMask hn)

/-- Settles O27. -/
theorem bitModification : Obligations.BitModification := by
  refine ⟨fun m s ea hm hea hmap => ⟨testAndModify (fun v a => v &&& ~~~a) hm hea hmap rfl,
    testAndModify (fun v a => v ||| a) hm hea hmap rfl⟩, fun z s hm => ?_⟩
  simp only [List.forall_mem_cons, List.not_mem_nil, false_implies, implies_true, and_true]
  exact ⟨⟨rmb_completes hm (by decide) rfl, rmb_completes hm (by decide) rfl, rmb_completes hm (by decide) rfl,
      rmb_completes hm (by decide) rfl, rmb_completes hm (by decide) rfl, rmb_completes hm (by decide) rfl,
      rmb_completes hm (by decide) rfl, rmb_completes hm (by decide) rfl⟩,
    smb_completes hm (by decide) rfl, smb_completes hm (by decide) rfl, smb_completes hm (by decide) rfl,
    smb_completes hm (by decide) rfl, smb_completes hm (by decide) rfl, smb_completes hm (by decide) rfl,
    smb_completes hm (by decide) rfl, smb_completes hm (by decide) rfl⟩

/-! ## Increments and decrements -/

theorem add_one_byte (v : Byte) : v + 1 = BitVec.ofNat 8 ((v.toNat + 1) % 256) := by bv_omega

theorem sub_one_byte (v : Byte) : v - 1 = BitVec.ofNat 8 ((v.toNat + 255) % 256) := by bv_omega

theorem toNat_add_one_byte (v : Byte) : (v + 1).toNat = (v.toNat + 1) % 256 := BitVec.toNat_add v 1

theorem toNat_sub_one_byte (v : Byte) : (v - 1).toNat = (v.toNat + 255) % 256 := by bv_omega

/-- INC and DEC of memory, by the byte they write. -/
theorem incDec_mem {i : Instr} {m : MemMode} {s : State} {ea : Addr} {g : Byte → Byte} (hm : s.mem.wf)
    (hea : effectiveAddress m s = .ok (ea, s)) (hmap : mapped s.config ea = true)
    (he : exec i s = modifyMemory m (fun v s => (g v, s.setNZ (g v))) s) :
    CompletesModify i ea s (fun v u t => FlagsNZ (g v) t ∧ WriteEffect ea (g v) [.z, .n] s u t) :=
  completesModify [.z, .n] hm hea hmap he (fun _ _ => ⟨_, rfl⟩) (fun _ u => (CpuFrame.refl _ _ u).setNZ _)
    fun _ _ _ _ hflag hwrite => ⟨(flagsNZ_setNZ _ _).of_flag hflag, hwrite⟩

/-- Settles O28. -/
theorem incrementsAndDecrements : Obligations.IncrementsAndDecrements := by
  refine ⟨fun m s ea hm hea hmap => ⟨?_, ?_⟩, fun s => ?_⟩
  · simp only [← add_one_byte]
    exact incDec_mem hm hea hmap rfl
  · simp only [← sub_one_byte]
    exact incDec_mem hm hea hmap rfl
  · have effect := fun r => RegisterEffect.refl [r] [.z, .n] s
    exact ⟨⟨_, rfl, toNat_add_one_byte _, flagsNZ_setNZ _ _, ((effect .a).setNZ _).setA _⟩,
      ⟨_, rfl, toNat_sub_one_byte _, flagsNZ_setNZ _ _, ((effect .a).setNZ _).setA _⟩,
      ⟨_, rfl, toNat_add_one_byte _, flagsNZ_setNZ _ _, ((effect .x).setX _).setNZ _⟩,
      ⟨_, rfl, toNat_sub_one_byte _, flagsNZ_setNZ _ _, ((effect .x).setX _).setNZ _⟩,
      ⟨_, rfl, toNat_add_one_byte _, flagsNZ_setNZ _ _, ((effect .y).setY _).setNZ _⟩,
      ⟨_, rfl, toNat_sub_one_byte _, flagsNZ_setNZ _ _, ((effect .y).setY _).setNZ _⟩⟩

/-! ## Flag instructions -/

theorem setFlag_completes {i : Instr} {s : State} {f : Flag} {b : Bool} (he : exec i s = .next (s.setFlag f b)) :
    Completes i s (fun t => t.flag f = b ∧ RegisterEffect [] [f] s s t) :=
  ⟨_, he, by simp, (RegisterEffect.refl [] [f] s).setFlag b (by simp)⟩

/-- Settles O29: each sets its one flag. -/
theorem flagInstructions : Obligations.FlagInstructions := by
  intro s
  simp only [List.forall_mem_cons, List.not_mem_nil, false_implies, implies_true, and_true]
  exact ⟨setFlag_completes rfl, setFlag_completes rfl, setFlag_completes rfl, setFlag_completes rfl,
    setFlag_completes rfl, setFlag_completes rfl, setFlag_completes rfl⟩

end Sys2Proof.Machine
end

section
/-! Obligations O30, O31, O32, O33, O34, O35, O36, O41 and O42: control transfer, BRK, RTI and the interrupt and reset
sequences, 45_control_flow.md, 46_system.md, 60_exceptions.md section 3 and 70_reset_and_hazards.md section 1. -/

namespace Sys2Proof.Machine

/-! ## JMP -/

theorem readWord_mapped {a : Addr} {s : State} (h : mapped s.config a = true) (h1 : mapped s.config (a + 1) = true) :
    ∃ w u, readWord a s = .ok (w, u) ∧ AfterRead s u := by
  obtain ⟨lo, t, ht⟩ := busRead_mapped h
  have hst := busRead_afterRead ht
  obtain ⟨hi, u, hu⟩ := busRead_mapped (s := t) ((hst.cpuFrame [] []).control.config ▸ h1)
  exact ⟨wordOf hi lo, u, by simp only [readWord, ht, hu, bind, Except.bind], hst.trans (busRead_afterRead hu)⟩

theorem jmp_completes {j : JumpMode} {s u : State} {target : Addr} (h : jumpTarget j s = .ok (target, u))
    (hu : AfterRead s u) : Completes (.jmp j) s (JumpEffect target [] [] s u) := by
  refine ⟨u.setPc target, ?_, (hu.effect [] []).setPc target⟩
  show execJmp j s = _
  rw [execJmp, h]
  rfl

/-- Settles O30: the target is the operand, or a word read. -/
theorem jumps : Obligations.Jumps := by
  intro w s
  refine ⟨jmp_completes rfl (.refl s), fun h h1 => ?_, fun p hp h h1 => ?_⟩
  · obtain ⟨target, u, hr, hu⟩ := readWord_mapped h h1
    exact ⟨target, u, hr, jmp_completes hr hu⟩
  · obtain rfl : p = w + zext16 s.x := by
      apply BitVec.eq_of_toNat_eq
      rw [hp, BitVec.toNat_add, zext16, BitVec.toNat_setWidth_of_le (by decide)]
    obtain ⟨target, u, hr, hu⟩ := readWord_mapped h h1
    exact ⟨target, u, hr, jmp_completes hr hu⟩

/-! ## JSR and RTS -/

theorem exec_rts (s : State) :
    exec .rts s = .next ((s.setSp (s.sp + 2)).setPc (wordOf (s.stacked 2) (s.stacked 1) + 1)) := by
  show execRts s = _
  rw [execRts, pullWord_stacked]
  rfl

theorem Pushed.setPc {bytes : List Byte} {s t : State} (h : Pushed bytes s t) (w : Addr) : Pushed bytes s (t.setPc w) :=
  ⟨h.sp, h.byte, h.elsewhere, h.devices⟩

theorem pushWord_cpuFrame {w : Addr} {s t : State} (h : pushWord w s = .ok t) : CpuFrame [.sp] [] s t := by
  cases (pushWord_eq w s).symm.trans h
  exact ((CpuFrame.refl _ _ s).setMem _).setSp _

/-- Settles O31: RTS pulls the word that JSR pushed. -/
theorem subroutines : Obligations.Subroutines := by
  intro w s hm
  obtain ⟨t, ht, hst⟩ := pushWord_pushed (s.pc - 1) hm
  have hjsr : exec (.jsr w) s = .next (t.setPc w) := by
    show execJsr w s = _
    rw [execJsr, ht]
    rfl
  have hhi : t.stacked 2 = hiByte (s.pc - 1) := hst.stacked (k := 0) (by simp)
  have hlo : t.stacked 1 = loByte (s.pc - 1) := hst.stacked (k := 1) (by simp)
  refine ⟨⟨t.setPc w, hjsr, hst.setPc w, rfl, (pushWord_cpuFrame ht).setPc w, _, exec_rts _, ?_, ?_⟩,
    _, exec_rts s, rfl, ((RegisterEffect.refl [.sp] [] s).setSp _).setPc _⟩
  · show wordOf (t.stacked 2) (t.stacked 1) + 1 = s.pc
    rw [hhi, hlo, wordOf_bytes]
    exact BitVec.sub_add_cancel s.pc 1
  · show t.sp + 2 = s.sp
    rw [hst.sp]
    exact BitVec.sub_add_cancel s.sp 2

/-! ## Branches -/

theorem toNat_sext16 (off : Byte) : ((sext16 off).toNat : Int) = off.toInt % 65536 := by
  revert off
  decide

/-- Where a taken branch goes (30_encoding.md R118). -/
theorem toNat_add_sext16 (pc : Addr) (off : Byte) :
    ((pc + sext16 off).toNat : Int) = ((pc.toNat : Int) + off.toInt) % 65536 := by
  have h := toNat_sext16 off
  rw [BitVec.toNat_add]
  omega

/-- A branch, taken or not (45_control_flow.md R223). -/
theorem branch_completes {i : Instr} {cond : Bool} {off : Byte} {s : State}
    (he : exec i s = .next (if cond then s.setPc (s.pc + sext16 off) else s)) :
    Completes i s (fun t => ∃ target, JumpEffect target [] [] s s t ∧
      (target.toNat : Int) = if cond = true then ((s.pc.toNat : Int) + off.toInt) % 65536 else s.pc.toNat) := by
  have effect := RegisterEffect.refl [] [] s
  cases cond with
  | false => exact ⟨s, he, s.pc, effect.setPc s.pc, rfl⟩
  | true => exact ⟨_, he, _, effect.setPc _, toNat_add_sext16 s.pc off⟩

/-- Settles O32. -/
theorem branches : Obligations.Branches := by
  intro off s
  simp only [List.forall_mem_cons, List.not_mem_nil, false_implies, implies_true, and_true, beq_false, beq_true]
  exact ⟨branch_completes rfl, branch_completes rfl, branch_completes rfl, branch_completes rfl, branch_completes rfl,
    branch_completes rfl, branch_completes rfl, branch_completes rfl,
    by simpa using branch_completes (i := .bra off) (s := s) (cond := true) rfl⟩

/-- BBRn and BBSn, by the bit of the zero-page byte (45_control_flow.md R233, R234). -/
theorem branchOnBit_completes {i : Instr} {n : Nat} {taken : Bool} {z off : Byte} {s : State}
    (he : exec i s = branchOnBit n taken z off s) :
    Completes i s (fun t => ∃ target, JumpEffect target [] [] s s t ∧ (target.toNat : Int) =
      if ((s.byteAt (zext16 z)).getLsbD n == taken) = true then ((s.pc.toNat : Int) + off.toInt) % 65536 else s.pc.toNat) :=
  branch_completes (he.trans (branchOnBit_eq n taken z off s))

/-- Settles O33. -/
theorem branchesOnBit : Obligations.BranchesOnBit := by
  intro z off s
  simp only [List.forall_mem_cons, List.not_mem_nil, false_implies, implies_true, and_true]
  exact ⟨⟨branchOnBit_completes rfl, branchOnBit_completes rfl, branchOnBit_completes rfl, branchOnBit_completes rfl,
      branchOnBit_completes rfl, branchOnBit_completes rfl, branchOnBit_completes rfl, branchOnBit_completes rfl⟩,
    branchOnBit_completes rfl, branchOnBit_completes rfl, branchOnBit_completes rfl, branchOnBit_completes rfl,
    branchOnBit_completes rfl, branchOnBit_completes rfl, branchOnBit_completes rfl, branchOnBit_completes rfl⟩

/-- Settles O34. -/
theorem nopWaiStp : Obligations.NopWaiStp := fun _ => ⟨rfl, fun _ => rfl, rfl, rfl⟩

/-! ## Exception entry -/

/-- Taking an exception: three bytes pushed, I set, PC from the vector (46_system.md R250, 60_exceptions.md R266). -/
theorem enterException_pushed {vec : Addr} (h : vec = Config.vecNmi ∨ vec = Config.vecReset ∨ vec = Config.vecIrq) (p : Byte)
    {s : State} (hm : s.mem.wf) :
    ∃ t, enterException p vec s = .ok t ∧ Pushed [hiByte s.pc, loByte s.pc, p] s t ∧ t.flag .i = true ∧
      t.pc = s.wordAt vec ∧ CpuFrame [.sp] [.i] s t := by
  obtain ⟨u, hu, hsu⟩ := pushWord_pushed s.pc hm
  cases (pushWord_eq s.pc s).symm.trans hu
  have hst := hsu.push (Memory.write_wf (Memory.write_wf hm _ _) _ _) (by simp) (push_eq p _)
  refine ⟨_, enterException_eq h p s, ⟨hst.sp, hst.byte, hst.elsewhere, hst.devices⟩, ?_, rfl,
    ((((CpuFrame.refl _ _ s).setMem _).setSp _).setFlag _).setPc _⟩
  exact (State.flag_setFlag .i .i true _).trans (if_pos rfl)

/-- BRK: an exception entered from the byte after its signature byte (46_system.md R250). -/
theorem brk_completes {s : State} (hm : s.mem.wf) : Completes .brk s (fun t =>
    Pushed [hiByte (s.pc + 1), loByte (s.pc + 1), s.p ||| 0x30] s t ∧ t.flag .i = true ∧ t.pc = s.wordAt 0xFFFE ∧
    CpuFrame [.sp] [.i] s t) := by
  obtain ⟨t, ht, hst, hi, hpc, hframe⟩ := enterException_pushed vector_irq (s.p ||| 0x30) (s := s.setPc (s.pc + 1)) hm
  exact ⟨t, toOutcome_next.2 ht, ⟨hst.sp, hst.byte, hst.elsewhere, hst.devices⟩, hi, hpc,
    ((CpuFrame.refl _ _ s).setPc _).trans hframe⟩

/-- Settles O35. -/
theorem brkEntry : Obligations.BrkEntry := fun _ hm => brk_completes hm

/-- The NMI and IRQ sequences (60_exceptions.md R266). -/
theorem interruptSequence_pushed {vec : Addr} (h : vec = Config.vecNmi ∨ vec = Config.vecReset ∨ vec = Config.vecIrq)
    {s : State} (hm : s.mem.wf) :
    ∃ t, interruptSequence vec s = .ok t ∧ Pushed [hiByte s.pc, loByte s.pc, (s.p ||| 0x20) &&& 0xEF] s t ∧
      t.flag .i = true ∧ (∀ f, f ≠ .i → t.flag f = s.flag f) ∧ (∀ q, q ≠ .sp → t.reg q = s.reg q) ∧
      t.pc = s.wordAt vec := by
  obtain ⟨u, hu, hst, hi, hpc, hframe⟩ := enterException_pushed h ((s.p ||| 0x20) &&& 0xEF) hm
  refine ⟨(u.setWaiting false).setPendingCycles 7, ?_, ⟨hst.sp, hst.byte, hst.elsewhere, hst.devices⟩, hi,
    fun f hf => hframe.flag f (by simpa using hf), fun q hq => hframe.reg q (by simpa using hq), hpc⟩
  rw [interruptSequence, show statusPushedByHardware s.p = (s.p ||| 0x20) &&& 0xEF from rfl, hu]
  rfl

theorem vector_cases {vec : Addr} (h : vec = 0xFFFA ∨ vec = 0xFFFE) :
    vec = Config.vecNmi ∨ vec = Config.vecReset ∨ vec = Config.vecIrq :=
  h.imp id .inr

/-- Settles O41. -/
theorem interruptEntry : Obligations.InterruptEntry := by
  intro s vec hm hvec
  obtain ⟨t, ht, hst, hi, hflag, hreg, hpc⟩ := interruptSequence_pushed (vector_cases hvec) hm
  exact ⟨t, ht, hst, hi, hflag, hreg .a nofun, hreg .x nofun, hreg .y nofun, hpc,
    interruptSequence_control (vector_cases hvec) ht⟩

/-! ## RTI -/

theorem exec_rti (s : State) : exec .rti s = .next (((s.setP (statusPulled (s.stacked 1))).setSp (s.sp + 3)).setPc
    (wordOf (s.stacked 3) (s.stacked 2))) := by
  have h2 : s.sp + 1 + 1 = s.sp + 2 := BitVec.add_assoc s.sp 1 1
  have h3 : s.sp + 2 + 1 = s.sp + 3 := BitVec.add_assoc s.sp 2 1
  show toOutcome (returnFromException s) = _
  rw [returnFromException_eq, h2, h3]
  rfl

/-- The pushed copies of P differ from it in B and U alone (46_system.md R250, 60_exceptions.md R266). -/
theorem getLsbD_statusPushed (p : Byte) {f : Flag} (hb : f ≠ .b) (hu : f ≠ .u) :
    (p ||| 0x30).getLsbD f.pos = p.getLsbD f.pos ∧ ((p ||| 0x20) &&& 0xEF).getLsbD f.pos = p.getLsbD f.pos := by
  have hbits : ∀ x : Byte, ∀ k < 8, k ≠ 4 → k ≠ 5 →
      (x ||| 0x30).getLsbD k = x.getLsbD k ∧ ((x ||| 0x20) &&& 0xEF).getLsbD k = x.getLsbD k := by decide
  exact hbits p f.pos f.pos_lt (fun h => hb (Flag.pos_inj.1 h)) fun h => hu (Flag.pos_inj.1 h)

/-- RTI after an exception entry comes back with registers and flags as before (60_exceptions.md R269). -/
theorem rti_after_entry {s t : State} {pc : Addr} {p : Byte} (hst : Pushed [hiByte pc, loByte pc, p] s t)
    (hreg : ∀ q, q ≠ .sp → t.reg q = s.reg q) (hp : ∀ f, f ≠ .b → f ≠ .u → p.getLsbD f.pos = s.flag f) :
    Completes .rti t (fun r => r.pc = pc ∧ (∀ q, r.reg q = s.reg q) ∧ ∀ f, f ≠ .b → f ≠ .u → r.flag f = s.flag f) := by
  have hhi : t.stacked 3 = hiByte pc := hst.stacked (k := 0) (by simp)
  have hlo : t.stacked 2 = loByte pc := hst.stacked (k := 1) (by simp)
  have hp1 : t.stacked 1 = p := hst.stacked (k := 2) (by simp)
  refine ⟨_, exec_rti t, ?_, fun q => ?_, fun f hb hu => ?_⟩
  · rw [hhi, hlo, wordOf_bytes]
    rfl
  · cases q with
    | sp =>
      show t.sp + 3 = s.sp
      rw [hst.sp]
      exact BitVec.sub_add_cancel s.sp 3
    | a => exact hreg .a nofun
    | x => exact hreg .x nofun
    | y => exact hreg .y nofun
  · exact ((flags_setP_statusPulled _ t).1 f hb hu).trans (hp1 ▸ hp f hb hu)

/-- Settles O36: RTI pulls what the entry pushed. -/
theorem returnFromException_spec : Obligations.ReturnFromException := by
  intro s
  obtain ⟨hflag, hb, hu⟩ := flags_setP_statusPulled (s.stacked 1) s
  refine ⟨⟨_, exec_rti s, hflag, hb, hu, rfl, (((RegisterEffect.refl _ _ s).setP _).setSp _).setPc _⟩, fun hm => ⟨?_, ?_⟩⟩
  · obtain ⟨t, ht, hst, -, -, hframe⟩ := brk_completes hm
    exact ⟨t, ht, rti_after_entry hst (fun q hq => hframe.reg q (by simpa using hq))
      fun f hb hu => (getLsbD_statusPushed s.p hb hu).1⟩
  · intro vec hvec
    obtain ⟨t, ht, hst, -, -, hreg, -⟩ := interruptSequence_pushed (vector_cases hvec) hm
    exact ⟨t, ht, rti_after_entry hst hreg fun f hb hu => (getLsbD_statusPushed s.p hb hu).2⟩

/-! ## The RESET sequence -/

/-- Settles O42. -/
theorem resetSequenceEffect : Obligations.ResetSequenceEffect := fun n s =>
  ⟨_, resetSequence_eq n s, rfl, rfl, rfl, by
    show (s.sp - 3).toNat = _
    rw [BitVec.toNat_sub, Nat.add_comm]
    rfl, rfl, rfl, sameMemory_refl s, sameDevices_refl s, by constructor <;> rfl⟩

end Sys2Proof.Machine
end

section
/-! Obligation O37: who writes a flag, SP, PC and a latch, 10_state.md R21, R24, R26. A rule per state update and per shape of
instruction says what is kept; each instruction is then its shape. -/

namespace Sys2Proof.Machine

theorem readWord_afterRead {a w : Addr} {s t : State} (e : readWord a s = .ok (w, t)) : AfterRead s t := by
  cases hl : busRead a s with
  | error f => simp [readWord, hl, bind, Except.bind] at e
  | ok p =>
    cases hh : busRead (a + 1) p.2 with
    | error f => simp only [readWord, hl, hh, bind, Except.bind, reduceCtorEq] at e
    | ok q =>
      simp only [readWord, hl, hh, bind, Except.bind, Except.ok.injEq, Prod.mk.injEq] at e
      exact e.2 ▸ (busRead_afterRead hl).trans (busRead_afterRead hh)

theorem jumpTarget_afterRead {j : JumpMode} {w : Addr} {s t : State} (e : jumpTarget j s = .ok (w, t)) :
    AfterRead s t := by
  cases j with
  | abs w =>
    cases e
    exact .refl s
  | ind w => exact readWord_afterRead e
  | iax w => exact readWord_afterRead e

/-- `t` has the flags of `s` but those that `w` names, its SP unless `sp`, its PC unless `pc`. -/
structure Keeps (w : Flag → Bool) (sp pc : Bool) (s t : State) : Prop where
  flag : ∀ f, w f = false → t.flag f = s.flag f
  sp   : sp = false → t.sp = s.sp
  pc   : pc = false → t.pc = s.pc

namespace Keeps

variable {w : Flag → Bool} {sp pc : Bool} {s t u : State}

/-! ## A rule per update -/

theorem refl (s : State) : Keeps w sp pc s s := ⟨fun _ _ => rfl, fun _ => rfl, fun _ => rfl⟩

theorem trans (h : Keeps w sp pc s t) (k : Keeps w sp pc t u) : Keeps w sp pc s u :=
  ⟨fun f hf => (k.flag f hf).trans (h.flag f hf), fun hs => (k.sp hs).trans (h.sp hs), fun hp => (k.pc hp).trans (h.pc hp)⟩

theorem setA (h : Keeps w sp pc s t) (v : Byte) : Keeps w sp pc s (t.setA v) := ⟨h.flag, h.sp, h.pc⟩

theorem setX (h : Keeps w sp pc s t) (v : Byte) : Keeps w sp pc s (t.setX v) := ⟨h.flag, h.sp, h.pc⟩

theorem setY (h : Keeps w sp pc s t) (v : Byte) : Keeps w sp pc s (t.setY v) := ⟨h.flag, h.sp, h.pc⟩

theorem setSp (h : Keeps w true pc s t) (v : Byte) : Keeps w true pc s (t.setSp v) := ⟨h.flag, nofun, h.pc⟩

theorem setPc (h : Keeps w sp true s t) (v : Addr) : Keeps w sp true s (t.setPc v) := ⟨h.flag, h.sp, nofun⟩

theorem setFlag (h : Keeps w sp pc s t) {f : Flag} (b : Bool) (hf : w f = true) : Keeps w sp pc s (t.setFlag f b) where
  flag g hg := by
    rw [State.flag_setFlag, if_neg (by rintro rfl; simp [hf] at hg)]
    exact h.flag g hg
  sp := h.sp
  pc := h.pc

theorem setNZ (h : Keeps w sp pc s t) (v : Byte) (hz : w .z = true) (hn : w .n = true) : Keeps w sp pc s (t.setNZ v) :=
  (h.setFlag _ hz).setFlag _ hn

theorem setP (h : Keeps w sp pc s t) (v : Byte) (hw : ∀ f, w f = true) : Keeps w sp pc s (t.setP v) :=
  ⟨fun f hf => by simp [hw f] at hf, h.sp, h.pc⟩

theorem afterRead (h : AfterRead s t) : Keeps w sp pc s t := by
  obtain ⟨via, acia, rfl⟩ := h
  exact ⟨fun _ _ => rfl, fun _ => rfl, fun _ => rfl⟩

theorem busWrite {a : Addr} {v : Byte} (h : Machine.busWrite a v s = .ok t) : Keeps w sp pc s t where
  flag f _ := (busWrite_cpuFrame h [] []).flag f nofun
  sp _ := (busWrite_cpuFrame h [] []).reg .sp nofun
  pc _ := busWrite_pc h

/-! ## A rule per shape -/

theorem readSource {o : Source} {v : Byte} (e : Machine.readSource o s = .ok (v, t)) : Keeps w sp pc s t := by
  cases o with
  | imm x =>
    cases e
    exact refl s
  | mem m =>
    rw [readSource_mem] at e
    exact afterRead (busRead_afterRead e)

theorem withSource {o : Source} {f : Byte → State → State} (hf : ∀ v u, Keeps w sp pc u (f v u))
    (e : Machine.withSource o f s = .next t) : Keeps w sp pc s t :=
  Closed.bindValue (P := Keeps w sp pc s) (fun _ _ hr => readSource hr)
    (fun v u hu hk => by cases hk; exact hu.trans (hf v u)) (toOutcome_next.1 e)

theorem store {m : MemMode} {v : Byte} (e : Machine.store m v s = .next t) : Keeps w sp pc s t := by
  rw [store_eq, toOutcome_next] at e
  exact busWrite e

theorem modifyMemory {m : MemMode} {f : Byte → State → Byte × State} (hf : ∀ v u, Keeps w sp pc u (f v u).2)
    (e : Machine.modifyMemory m f s = .next t) : Keeps w sp pc s t := by
  cases hr : busRead (addressOf m s) s with
  | error x => simp [modifyMemory_of_error hr] at e
  | ok p =>
    rw [modifyMemory_of_ok hr, toOutcome_next] at e
    exact ((afterRead (busRead_afterRead hr)).trans (hf p.1 p.2)).trans (busWrite e)

theorem modify {o : Target} {f : Byte → State → Byte × State} (hf : ∀ v u, Keeps w sp pc u (f v u).2)
    (e : Machine.modify o f s = .next t) : Keeps w sp pc s t := by
  cases o with
  | acc =>
    cases e
    exact (hf s.a s).setA _
  | mem m => exact modifyMemory hf e

theorem pushWord {a : Addr} (e : Machine.pushWord a s = .ok t) : Keeps w true pc s t := by
  cases (pushWord_eq a s).symm.trans e
  exact ⟨fun _ _ => rfl, nofun, fun _ => rfl⟩

theorem pushRegister {v : Byte} (e : Machine.pushRegister v s = .next t) : Keeps w true pc s t := by
  cases (push_eq v s).symm.trans (toOutcome_next.1 e)
  exact ⟨fun _ _ => rfl, nofun, fun _ => rfl⟩

theorem pullRegister {f : Byte → State → State} (hf : ∀ v u, Keeps w true pc u (f v u))
    (e : Machine.pullRegister f s = .next t) : Keeps w true pc s t := by
  rw [pullRegister_stacked] at e
  cases e
  exact ((refl s).setSp _).trans (hf _ _)

theorem branch {c : Bool} {off : Byte} (e : Machine.branch c off s = .next t) : Keeps w sp true s t := by
  cases e
  split
  · exact (refl s).setPc _
  · exact refl s

theorem branchOnBit {n : Nat} {c : Bool} {z off : Byte} (e : Machine.branchOnBit n c z off s = .next t) :
    Keeps w sp true s t :=
  branch (c := (s.mem.read (zext16 z).toNat).getLsbD n == c) (off := off) ((branchOnBit_eq n c z off s).symm.trans e)

/-- ADC, SBC, the compares and the shifts set flags by these three. -/
theorem addToA (hc : w .c = true) (hz : w .z = true) (hn : w .n = true) (hv : w .v = true) (v : Byte) (u : State) :
    Keeps w sp pc u (u.addToA v) :=
  ((((refl u).setFlag _ hv).setNZ _ hz hn).setFlag _ hc).setA _

theorem subFromA (hc : w .c = true) (hz : w .z = true) (hn : w .n = true) (hv : w .v = true) (v : Byte) (u : State) :
    Keeps w sp pc u (u.subFromA v) :=
  ((((refl u).setFlag _ hv).setNZ _ hz hn).setFlag _ hc).setA _

theorem compare (hc : w .c = true) (hz : w .z = true) (hn : w .n = true) (r v : Byte) (u : State) :
    Keeps w sp pc u (u.compare r v) :=
  ((refl u).setFlag _ hc).setNZ _ hz hn

theorem shift (hc : w .c = true) (hz : w .z = true) (hn : w .n = true) (c : Bool) (r : Byte) (u : State) :
    Keeps w sp pc u ((u.setFlag .c c).setNZ r) :=
  ((refl u).setFlag _ hc).setNZ _ hz hn

end Keeps

/-! ## The instructions -/

/-- BIT: under `BIT_IMM_FLAGS = nvz` the immediate form writes N and V too (43_logic_shift.md R183). -/
theorem Keeps.bit {o : Source} {s t : State} (e : exec (.bit o) s = .next t) :
    Keeps (writesFlag s.config · (.bit o)) false false s t := by
  have hnvz : ∀ (v : Byte) (u : State), writesFlag s.config .n (.bit o) = true → writesFlag s.config .v (.bit o) = true →
      Keeps (writesFlag s.config · (.bit o)) false false u ((u.testZ v).testNV v) := fun v u hn hv =>
    (((refl u).setFlag (f := .z) _ rfl).setFlag (f := .n) _ hn).setFlag (f := .v) _ hv
  cases o with
  | mem m => exact withSource (f := fun v s => (s.testZ v).testNV v) (fun v u => hnvz v u rfl rfl) e
  | imm x =>
    cases hflags : s.config.bitImmFlags with
    | zOnly =>
      rw [execBit_zOnly hflags] at e
      exact withSource (fun v u => (refl u).setFlag _ rfl) e
    | nvz =>
      rw [execBit_nvz (by simp [hflags])] at e
      have hw : ∀ f, f = .n ∨ f = .v → writesFlag s.config f (.bit (.imm x)) = true := by
        rintro f (rfl | rfl) <;> simp [writesFlag, hflags]
      exact withSource (fun v u => hnvz v u (hw .n (.inl rfl)) (hw .v (.inr rfl))) e

/-- Every instruction keeps what it is not listed to write (10_state.md R21, R24, R26). -/
theorem exec_keeps {i : Instr} {s t : State} (e : exec i s = .next t) :
    Keeps (writesFlag s.config · i) (writesSp i) (writesPc i) s t := by
  have start : ∀ {w : Flag → Bool} {sp pc : Bool}, Keeps w sp pc s s := Keeps.refl s
  cases i
  case lda => exact Keeps.withSource (f := fun v s => (s.setA v).setNZ v) (fun v u => ((Keeps.refl u).setA v).setNZ v rfl rfl) e
  case ldx => exact Keeps.withSource (f := fun v s => (s.setX v).setNZ v) (fun v u => ((Keeps.refl u).setX v).setNZ v rfl rfl) e
  case ldy => exact Keeps.withSource (f := fun v s => (s.setY v).setNZ v) (fun v u => ((Keeps.refl u).setY v).setNZ v rfl rfl) e
  case sta | stx | sty | stz => exact Keeps.store e
  case tax | tsx => cases e; exact (start.setX _).setNZ _ rfl rfl
  case inx | dex => cases e; exact (start.setX _).setNZ _ rfl rfl
  case tay | iny | dey => cases e; exact (start.setY _).setNZ _ rfl rfl
  case txa | tya => cases e; exact (start.setA _).setNZ _ rfl rfl
  case txs => cases e; exact start.setSp _
  case pha | php | phx | phy => exact Keeps.pushRegister e
  case pla => exact Keeps.pullRegister (f := fun v s => (s.setA v).setNZ v) (fun v u => ((Keeps.refl u).setA v).setNZ v rfl rfl) e
  case plx => exact Keeps.pullRegister (f := fun v s => (s.setX v).setNZ v) (fun v u => ((Keeps.refl u).setX v).setNZ v rfl rfl) e
  case ply => exact Keeps.pullRegister (f := fun v s => (s.setY v).setNZ v) (fun v u => ((Keeps.refl u).setY v).setNZ v rfl rfl) e
  case plp => exact Keeps.pullRegister (f := fun v s => s.setP (statusPulled v)) (fun v u => (Keeps.refl u).setP _ fun _ => rfl) e
  case adc => exact Keeps.withSource (Keeps.addToA rfl rfl rfl rfl) e
  case sbc => exact Keeps.withSource (Keeps.subFromA rfl rfl rfl rfl) e
  case cmp => exact Keeps.withSource (f := fun v s => s.compare s.a v) (fun v u => Keeps.compare rfl rfl rfl u.a v u) e
  case cpx => exact Keeps.withSource (f := fun v s => s.compare s.x v) (fun v u => Keeps.compare rfl rfl rfl u.x v u) e
  case cpy => exact Keeps.withSource (f := fun v s => s.compare s.y v) (fun v u => Keeps.compare rfl rfl rfl u.y v u) e
  case and =>
    exact Keeps.withSource (f := fun v s => (s.setA (s.a &&& v)).setNZ (s.a &&& v))
      (fun v u => ((Keeps.refl u).setA _).setNZ _ rfl rfl) e
  case ora =>
    exact Keeps.withSource (f := fun v s => (s.setA (s.a ||| v)).setNZ (s.a ||| v))
      (fun v u => ((Keeps.refl u).setA _).setNZ _ rfl rfl) e
  case eor =>
    exact Keeps.withSource (f := fun v s => (s.setA (s.a ^^^ v)).setNZ (s.a ^^^ v))
      (fun v u => ((Keeps.refl u).setA _).setNZ _ rfl rfl) e
  case bit => exact Keeps.bit e
  case asl => exact Keeps.modify (f := aslByte) (fun v u => Keeps.shift rfl rfl rfl _ _ u) e
  case lsr => exact Keeps.modify (f := lsrByte) (fun v u => Keeps.shift rfl rfl rfl _ _ u) e
  case rol => exact Keeps.modify (f := rolByte) (fun v u => Keeps.shift rfl rfl rfl _ _ u) e
  case ror => exact Keeps.modify (f := rorByte) (fun v u => Keeps.shift rfl rfl rfl _ _ u) e
  case inc => exact Keeps.modify (f := incByte) (fun v u => (Keeps.refl u).setNZ _ rfl rfl) e
  case dec => exact Keeps.modify (f := decByte) (fun v u => (Keeps.refl u).setNZ _ rfl rfl) e
  case trb => exact Keeps.modifyMemory (f := trbByte) (fun v u => (Keeps.refl u).setFlag _ rfl) e
  case tsb => exact Keeps.modifyMemory (f := tsbByte) (fun v u => (Keeps.refl u).setFlag _ rfl) e
  case rmb0 => exact Keeps.modifyMemory (f := rmbByte 0) (fun _ u => Keeps.refl u) e
  case rmb1 => exact Keeps.modifyMemory (f := rmbByte 1) (fun _ u => Keeps.refl u) e
  case rmb2 => exact Keeps.modifyMemory (f := rmbByte 2) (fun _ u => Keeps.refl u) e
  case rmb3 => exact Keeps.modifyMemory (f := rmbByte 3) (fun _ u => Keeps.refl u) e
  case rmb4 => exact Keeps.modifyMemory (f := rmbByte 4) (fun _ u => Keeps.refl u) e
  case rmb5 => exact Keeps.modifyMemory (f := rmbByte 5) (fun _ u => Keeps.refl u) e
  case rmb6 => exact Keeps.modifyMemory (f := rmbByte 6) (fun _ u => Keeps.refl u) e
  case rmb7 => exact Keeps.modifyMemory (f := rmbByte 7) (fun _ u => Keeps.refl u) e
  case smb0 => exact Keeps.modifyMemory (f := smbByte 0) (fun _ u => Keeps.refl u) e
  case smb1 => exact Keeps.modifyMemory (f := smbByte 1) (fun _ u => Keeps.refl u) e
  case smb2 => exact Keeps.modifyMemory (f := smbByte 2) (fun _ u => Keeps.refl u) e
  case smb3 => exact Keeps.modifyMemory (f := smbByte 3) (fun _ u => Keeps.refl u) e
  case smb4 => exact Keeps.modifyMemory (f := smbByte 4) (fun _ u => Keeps.refl u) e
  case smb5 => exact Keeps.modifyMemory (f := smbByte 5) (fun _ u => Keeps.refl u) e
  case smb6 => exact Keeps.modifyMemory (f := smbByte 6) (fun _ u => Keeps.refl u) e
  case smb7 => exact Keeps.modifyMemory (f := smbByte 7) (fun _ u => Keeps.refl u) e
  case clc | sec | cli | sei | cld | sed | clv => cases e; exact start.setFlag _ rfl
  case jmp =>
    exact Closed.bindValue (P := Keeps _ false true s) (fun _ _ hr => Keeps.afterRead (jumpTarget_afterRead hr))
      (fun _ _ hu hk => by cases hk; exact hu.setPc _) (toOutcome_next.1 e)
  case jsr =>
    exact Closed.bindState (P := Keeps _ true true s) (fun _ hr => Keeps.pushWord hr)
      (fun _ hu hk => by cases hk; exact hu.setPc _) (toOutcome_next.1 e)
  case rts =>
    rw [exec_rts] at e
    cases e
    exact (start.setSp _).setPc _
  case rti =>
    rw [exec_rti] at e
    cases e
    exact ((start.setP _ fun _ => rfl).setSp _).setPc _
  case brk =>
    cases (enterException_eq vector_irq _ _).symm.trans (toOutcome_next.1 e)
    exact ⟨((start (sp := true) (pc := true)).setFlag (f := .i) true rfl).flag, nofun, nofun⟩
  case bpl | bmi | bvc | bvs | bcc | bcs | bne | beq | bra => exact Keeps.branch e
  case bbr0 | bbr1 | bbr2 | bbr3 | bbr4 | bbr5 | bbr6 | bbr7 => exact Keeps.branchOnBit e
  case bbs0 | bbs1 | bbs2 | bbs3 | bbs4 | bbs5 | bbs6 | bbs7 => exact Keeps.branchOnBit e
  case nop | nopReserved => cases e; exact start
  case wai | stp => cases e; exact ⟨fun _ _ => rfl, fun _ => rfl, fun _ => rfl⟩

/-- No state update of an instruction but WAI's and STP's touches a latch (10_state.md R26). -/
theorem closed_sameControl (s : State) : Closed (SameControl s) where
  a := fun _ _ h => { h with }
  x := fun _ _ h => { h with }
  y := fun _ _ h => { h with }
  sp := fun _ _ h => { h with }
  pc := fun _ _ h => { h with }
  flag := fun _ _ _ _ _ h => { h with }
  pulled := fun _ _ h => { h with }
  read := fun _ _ _ _ e h => h.trans ((busRead_afterRead e).cpuFrame [] []).control
  write := fun _ _ _ _ e h => h.trans (busWrite_cpuFrame e [] []).control

/-- Settles O37. -/
theorem writers : Obligations.Writers := by
  intro i s t e
  obtain ⟨hflag, hsp, hpc⟩ := exec_keeps e
  refine ⟨hflag, hsp, hpc, fun hwai hstp => ?_⟩
  rcases (closed_sameControl s).exec (.refl s) e with h | ⟨h, -⟩ | ⟨h, -⟩
  · exact h
  · exact absurd h hwai
  · exact absurd h hstp

end Sys2Proof.Machine
end

section
/-! Obligations O38, O39, O40, O43, O44 and O45: what one step does, 00_scope.md section 5 and 60_exceptions.md section 3. The CPU
step is first taken apart by its cases; then the fetch from plain memory, and what a step that only spends a cycle leaves. -/

namespace Sys2Proof.Machine

/-! ## The CPU step by cases -/

theorem cpuStep_halted {s : State} (hh : s.halted = true) (hr : s.resetPending = false) :
    cpuStep s = .next (spendCycle s) := by
  simp [cpuStep, hh, hr]

theorem cpuStep_waiting {s : State} (hh : s.halted = false) (hw : s.waiting = true) (hp : s.anyPending = false) :
    cpuStep s = .next s := by
  simp [cpuStep, hh, hw, hp]

/-- A CPU that is not stopped spends a residual cycle, or is at a boundary. -/
theorem cpuStep_running {s : State} (hh : s.halted = true → s.resetPending = true)
    (hw : s.waiting = true → s.anyPending = true) :
    cpuStep s = if 0 < s.pendingCycles then .next (spendCycle (s.setWaiting false))
      else mapNext spendCycle (serviceBoundary (s.setWaiting false)) := by
  have hh' : ¬ (s.halted && !s.resetPending) = true := by simpa using hh
  have hw' : ¬ (s.waiting && !s.anyPending) = true := by simpa using hw
  rw [cpuStep, if_neg hh', if_neg hw']

theorem serviceBoundary_eq (s : State) :
    serviceBoundary s = if s.resetPending = true then toOutcome (resetSequence 7 s)
      else if s.nmiPending = true then toOutcome (interruptSequence 0xFFFA (s.setNmiPending false))
      else if s.irqPending = true ∧ s.flag .i = false then toOutcome (interruptSequence 0xFFFE (s.setIrqPending false))
      else executeInstruction s := by
  have hirq : (s.irqPending && !s.flag .i) = true ↔ s.irqPending = true ∧ s.flag .i = false := by simp
  simp only [serviceBoundary, hirq, Config.vecNmi, Config.vecIrq]

/-- Settles O40. -/
theorem cpuStepOrder : Obligations.CpuStepOrder := by
  refine fun s => ⟨cpuStep_halted, cpuStep_waiting, fun hh hw => ⟨fun hp => ?_, fun hp => ?_⟩, fun u hu => step_eq hu⟩
  · rw [cpuStep_running hh hw, if_pos hp]
    rfl
  · rw [cpuStep_running hh hw, if_neg (by omega), serviceBoundary_eq]
    rfl

/-! ## The step at a boundary with nothing to service -/

theorem performDue_quiet {s : State} (h : s.quiet) : performDue s = .ok (s.setHostInput s.hostInput.tail) := by
  rw [performDue_eq, h]
  rfl

theorem cpuStep_ready {s : State} (h : s.ready) : cpuStep s = mapNext spendCycle (executeInstruction s) := by
  have hset : s.setWaiting false = s := by
    rw [← h.waiting]
    rfl
  have hirq : ¬ (s.irqPending = true ∧ s.flag .i = false) := fun ⟨hp, hi⟩ => by simp [h.irqMasked hp] at hi
  rw [cpuStep_running (by simp [h.halted]) (by simp [h.waiting]), if_neg (by simp [h.pendingCycles]), hset,
    serviceBoundary_eq, if_neg (by simp [h.resetPending]), if_neg (by simp [h.nmiPending]), if_neg hirq]

theorem step_ready {s : State} (hq : s.quiet) (h : s.ready) :
    step s = mapNext (fun t => (busTick (spendCycle t)).setCycleCount (t.cycleCount + 1))
      (executeInstruction (s.setHostInput s.hostInput.tail)) := by
  have h' : (s.setHostInput s.hostInput.tail).ready :=
    ⟨h.halted, h.waiting, h.pendingCycles, h.resetPending, h.nmiPending, h.irqMasked⟩
  rw [step_eq (performDue_quiet hq), cpuStep_ready h', mapNext_mapNext]
  rfl

/-- The step that executes a fetched instruction (60_exceptions.md R262, conflict C1). -/
theorem step_of_fetch {s u : State} {i : Instr} {n : Nat} (hq : s.quiet) (h : s.ready)
    (hf : fetch (s.setHostInput s.hostInput.tail) = .ok ((i, n), u)) :
    step s = mapNext (fun t => (busTick (t.setPendingCycles (n - 1))).setCycleCount (t.cycleCount + 1)) (exec i u) := by
  rw [step_ready hq h, executeInstruction, hf]
  exact mapNext_mapNext _ _ _

theorem step_of_fetch_error {s : State} {f : Fault} (hq : s.quiet) (h : s.ready)
    (hf : fetch (s.setHostInput s.hostInput.tail) = .error f) : step s = .fault f := by
  rw [step_ready hq h, executeInstruction, hf]
  rfl

/-! ## The fetch from RAM or ROM -/

/-- Up to three bytes of plain memory, read without side effect (20_memory.md R66). -/
theorem readBytes_plain {a : Addr} {s : State} {n : Nat} (hn : n ≤ 3)
    (hplain : ∀ k < n, isPlain (a + BitVec.ofNat 16 k) = true) : readBytes n a s = .ok ((s.bytesAt a).take n, s) := by
  have hread : ∀ k < n, busRead (a + BitVec.ofNat 16 k) s = .ok (s.byteAt (a + BitVec.ofNat 16 k), s) :=
    fun k hk => busRead_plain (hplain k hk) s
  have h0 : 0 < n → busRead a s = .ok (s.byteAt a, s) := fun h => BitVec.add_zero a ▸ hread 0 h
  have h2 : a + 1 + 1 = a + 2 := BitVec.add_assoc a 1 1
  match n with
  | 0 => rfl
  | 1 => exact readBytes_succ.2 ⟨s, h0 (by omega), rfl⟩
  | 2 => exact readBytes_succ.2 ⟨s, h0 (by omega), readBytes_succ.2 ⟨s, hread 1 (by omega), rfl⟩⟩
  | 3 =>
    exact readBytes_succ.2 ⟨s, h0 (by omega), readBytes_succ.2 ⟨s, hread 1 (by omega),
      readBytes_succ.2 ⟨s, h2 ▸ hread 2 (by omega), rfl⟩⟩⟩

/-- An instruction is as long as its opcode's form says (30_encoding.md R100). -/
theorem builds_instr_length {f : OpcodeForm} {operands : List Byte} {i : Instr} (h : f.Builds operands i)
    (hf : f.HasLength) : i.length = 1 + f.operandBytes := by
  unfold OpcodeForm.Builds at h
  split at h
  case h_1 => exact h ▸ hf
  case h_2 b => exact h ▸ hf b
  case h_3 => exact h ▸ hf
  case h_4 b c => exact h ▸ hf b c
  case h_5 => exact h.elim

theorem operandsRead_le (op : Byte) : operandsRead op ≤ (opcodeEntry op).form.operandBytes := by
  unfold operandsRead
  cases (opcodeEntry op).form with
  | f1 i | f2Skip i => exact Nat.zero_le _
  | f2 mk | f3 mk => exact Nat.le_refl _

/-- A fetch from plain memory gives what the bytes at PC decode to and has no side effect (30_encoding.md R102). -/
theorem fetch_plain {s : State} {i : Instr} {rest : List Byte} (hd : decode (s.bytesAt s.pc) = .ok (i, rest))
    (hplain : ∀ k < i.length, isPlain (s.pc + BitVec.ofNat 16 k) = true) :
    fetch s = .ok ((i, cyclesOf s.config (s.byteAt s.pc)), s.setPc (s.pc + BitVec.ofNat 16 i.length)) := by
  obtain ⟨operands, hbytes, hbuilds⟩ := builds_of_decode hd
  have hread := operandsRead_le (s.byteAt s.pc)
  have hlength := builds_instr_length hbuilds (opcodeEntry_hasLength _)
  have hoperands := hbuilds.length_eq
  have htwo : operands.length ≤ 2 := by
    have h : 2 = operands.length + rest.length := List.length_append ▸ congrArg List.length hbytes
    omega
  have htake : (s.bytesAt s.pc).take (1 + operandsRead (s.byteAt s.pc)) =
      s.byteAt s.pc :: operands.take (operandsRead (s.byteAt s.pc)) := by
    rw [Nat.add_comm, State.bytesAt, List.take_succ_cons, hbytes, List.take_append_of_le_length (by omega)]
  have hdecode := decode_of_builds hbuilds []
  rw [← List.take_append_drop (operandsRead (s.byteAt s.pc)) operands, List.append_nil] at hdecode
  refine fetch_of_readBytes (skipped := operands.drop (operandsRead (s.byteAt s.pc))) ?_ hdecode
  rw [← htake]
  exact readBytes_plain (by omega) fun k hk => hplain k (by omega)

theorem fetch_opcode_error {s : State} (h : mapped s.config s.pc = false) : fetch s = .error (.outOfRange s.pc) := by
  rw [fetch_eq, busRead_unmappedAddr h]
  rfl

/-- Settles O38, by what the fetch gives. -/
theorem stepRunsDecodedInstruction : Obligations.StepRunsDecodedInstruction := by
  intro s hq h
  refine ⟨fun i rest hd hplain => step_of_fetch hq h (fetch_plain hd hplain),
    fun op operands skipped i u hr hd => step_of_fetch hq h (fetch_of_readBytes hr hd),
    fun hm => step_of_fetch_error hq h (fetch_opcode_error hm), fun op u k hop hk hbefore hm => ?_⟩
  have hc : u.config = s.config := (busRead_keeps hop).2
  have hshift : ∀ j, s.pc + BitVec.ofNat 16 (1 + j) = s.pc + 1 + BitVec.ofNat 16 j := fun j => by
    rw [BitVec.ofNat_add, ← BitVec.add_assoc]
    rfl
  rw [hshift] at hm ⊢
  refine step_of_fetch_error hq h (fetch_operand_error hop (readBytes_error hk (fun j hj => ?_) (hc ▸ hm)))
  rw [hc]
  exact hshift j ▸ hbefore j hj

/-! ## Spending a cycle -/

/-- After `k` steps that only spend cycles: registers and memory as they were, `k` fewer residual cycles, `k` more cycles counted,
and the CPU's run state as it was. -/
structure Spent (k : Nat) (s t : State) : Prop where
  same          : SameCpuAndMemory s t
  pendingCycles : t.pendingCycles = s.pendingCycles - k
  cycleCount    : t.cycleCount = s.cycleCount + k
  halted        : t.halted = s.halted
  waiting       : t.waiting = s.waiting
  resetPending  : t.resetPending = s.resetPending

theorem SameCpuAndMemory.refl (s : State) : SameCpuAndMemory s s := by constructor <;> rfl

theorem SameCpuAndMemory.trans {s t u : State} (h : SameCpuAndMemory s t) (k : SameCpuAndMemory t u) :
    SameCpuAndMemory s u :=
  ⟨k.a.trans h.a, k.x.trans h.x, k.y.trans h.y, k.sp.trans h.sp, k.pc.trans h.pc, k.p.trans h.p, k.mem.trans h.mem⟩

theorem Spent.refl (s : State) : Spent 0 s s := ⟨.refl s, rfl, rfl, rfl, rfl, rfl⟩

theorem Spent.trans {j k : Nat} {s t u : State} (h : Spent j s t) (h' : Spent k t u) : Spent (j + k) s u where
  same := h.same.trans h'.same
  pendingCycles := by rw [h'.pendingCycles, h.pendingCycles, Nat.sub_sub]
  cycleCount := by rw [h'.cycleCount, h.cycleCount, Nat.add_assoc]
  halted := h'.halted.trans h.halted
  waiting := h'.waiting.trans h.waiting
  resetPending := h'.resetPending.trans h.resetPending

/-- The host's actions leave the queue that is still to come. -/
theorem performDue_hostInput {s t : State} (e : performDue s = .ok t) : t.hostInput = s.hostInput.tail := by
  rw [performDue] at e
  split at e
  · next h =>
    cases e
    rw [h]
    rfl
  · next now later h =>
    rw [h]
    refine performAll_keeps (P := fun u => u.hostInput = later) (fun a _ u v e hu => ?_) rfl e
    rcases perform_cases e with ⟨_, _, rfl⟩ | ⟨_, e⟩ | ⟨_, rfl⟩ | ⟨_, p, l, w, c, rfl⟩
    · exact hu
    · cases (resetSequence_eq 0 u).symm.trans e
      exact hu
    · exact hu
    · exact hu

/-- Actions short of a power-on and a reset leave the CPU as it is (10_state.md R38). -/
theorem performDue_spent {s t : State} (h : s.hostLeavesCpu) (e : performDue s = .ok t) : Spent 0 s t :=
  performDue_keeps (P := Spent 0 s) (fun _ _ hu => ⟨{ hu.same with }, hu.pendingCycles, hu.cycleCount, hu.halted, hu.waiting,
      hu.resetPending⟩)
    (fun a ha u v e hu => by
      have hl : a.leavesCpu = true := by
        cases hi : s.hostInput with
        | nil => simp [hi] at ha
        | cons now later => exact h now (by simp [hi]) a (by simpa [hi] using ha)
      rcases perform_cases e with ⟨_, rfl, -⟩ | ⟨rfl, -⟩ | ⟨rfl, -⟩ | ⟨-, p, l, w, c, rfl⟩
      · cases hl
      · cases hl
      · cases hl
      · exact ⟨{ hu.same with }, hu.pendingCycles, hu.cycleCount, hu.halted, hu.waiting, hu.resetPending⟩)
    (.refl s) e

/-- The next `k` CPU steps can do nothing but spend cycles: the CPU is halted with no reset pending, or it runs with `k` residual
cycles left. -/
def State.spends (k : Nat) (s : State) : Prop :=
  (s.halted = true ∧ s.resetPending = false) ∨ (s.halted = false ∧ s.waiting = false ∧ k ≤ s.pendingCycles)

theorem cpuStep_spends {s : State} (h : s.spends 1) : cpuStep s = .next (spendCycle s) := by
  rcases h with ⟨hh, hr⟩ | ⟨hh, hw, hp⟩
  · exact cpuStep_halted hh hr
  · have hset : s.setWaiting false = s := by
      rw [← hw]
      rfl
    rw [cpuStep_running (by simp [hh]) (by simp [hw]), if_pos (Nat.lt_of_lt_of_le Nat.zero_lt_one hp), hset]

theorem Spent.spends {j k : Nat} {s t : State} (h : Spent j s t) (hs : s.spends (j + k)) : t.spends k := by
  unfold State.spends at hs ⊢
  rw [h.halted, h.waiting, h.resetPending, h.pendingCycles]
  exact hs.imp id fun ⟨hh, hw, hp⟩ => ⟨hh, hw, by omega⟩

theorem tick_spendCycle_spent (s : State) : Spent 1 s ((busTick (spendCycle s)).setCycleCount (s.cycleCount + 1)) := by
  rw [busTick_eq]
  exact ⟨by constructor <;> rfl, rfl, rfl, rfl, rfl, rfl⟩

theorem step_spends {s : State} (hl : s.hostLeavesCpu) (h : s.spends 1) :
    ∃ t, step s = .next t ∧ Spent 1 s t ∧ t.hostLeavesCpu := by
  obtain ⟨u, hu⟩ := performDue_ok s
  have hsu := performDue_spent hl hu
  refine ⟨_, ?_, hsu.trans (tick_spendCycle_spent u), ?_⟩
  · rw [step_eq hu, cpuStep_spends (hsu.spends (k := 1) (by simpa using h))]
    rfl
  · have htail : (busTick (spendCycle u)).hostInput = s.hostInput.tail := by
      rw [busTick_eq]
      exact (performDue_hostInput hu : u.hostInput = s.hostInput.tail)
    intro l hmem
    exact hl l (List.mem_of_mem_tail (htail ▸ hmem))

theorem run_succ {m : Host.Core} {s u : m.State} (h : m.step s = .next u) (k : Nat) : m.run (k + 1) s = m.run k u := by
  rw [Host.Core.run, h]

theorem run_spends (k : Nat) : ∀ {s : State}, s.hostLeavesCpu → s.spends k → ∃ t, core.run k s = .next t ∧ Spent k s t := by
  induction k with
  | zero => exact fun {s} _ _ => ⟨s, rfl, .refl s⟩
  | succ k ih =>
    intro s hl h
    obtain ⟨u, hu, hsu, hlu⟩ := step_spends hl (h.imp id fun ⟨hh, hw, hp⟩ => ⟨hh, hw, by omega⟩)
    obtain ⟨t, ht, hut⟩ := ih hlu (hsu.spends (Nat.add_comm k 1 ▸ h))
    refine ⟨t, ?_, Nat.add_comm 1 k ▸ hsu.trans hut⟩
    exact (run_succ (m := core) hu k).trans ht

/-- Settles O39: a running CPU with residual cycles only spends them. -/
theorem residualCycles : Obligations.ResidualCycles := by
  intro k s hh hw hk hl
  obtain ⟨t, ht, h⟩ := run_spends k hl (.inr ⟨hh, hw, hk⟩)
  exact ⟨t, ht, h.same, h.pendingCycles, h.cycleCount, h.halted.trans hh, h.waiting.trans hw⟩

/-- Settles O43: so does a halted CPU with no reset pending. -/
theorem haltedCpuIsFrozen : Obligations.HaltedCpuIsFrozen := by
  intro k s hh hr hl
  obtain ⟨t, ht, h⟩ := run_spends k hl (.inl ⟨hh, hr⟩)
  refine ⟨t, ht, h.same, h.halted.trans hh, h.resetPending.trans hr, h.pendingCycles, h.cycleCount, fun hk => ?_⟩
  simp [State.isFinal, h.halted.trans hh, h.pendingCycles, hk]

/-! ## IRQ -/

/-- Settles O44. -/
theorem irqEdge : Obligations.IrqEdge := by
  intro s
  rw [busTick_eq]
  refine ⟨rfl, rfl, rfl, rfl, ?_, by constructor <;> rfl, by constructor <;> rfl⟩
  simp only [Bool.or_eq_true, Bool.and_eq_true, Bool.not_eq_true', or_assoc, and_assoc]
  tauto

/-- No state update of an instruction touches the IRQ latch (60_exceptions.md R272). -/
theorem closed_irqPending : Closed (fun s => s.irqPending = true) where
  a := fun _ _ h => h
  x := fun _ _ h => h
  y := fun _ _ h => h
  sp := fun _ _ h => h
  pc := fun _ _ h => h
  flag := fun _ _ _ _ _ h => h
  pulled := fun _ _ h => h
  read := fun _ _ _ _ e h => ((busRead_afterRead e).cpuFrame [] []).control.irqPending.trans h
  write := fun _ _ _ _ e h => (busWrite_cpuFrame e [] []).control.irqPending.trans h

/-- A boundary keeps a latched IRQ unless it services it (60_exceptions.md R265, R272). -/
theorem serviceBoundary_irqPending {s t : State} (hr : s.resetPending = false) (hirq : s.irqPending = true)
    (h : s.flag .i = true ∨ s.nmiPending = true) (e : serviceBoundary s = .next t) : t.irqPending = true := by
  rcases serviceBoundary_next e with ⟨hr', -⟩ | ⟨-, -, e⟩ | ⟨-, hn, -, hi, -⟩ | ⟨-, -, -, i, n, u, v, hf, he, rfl⟩
  · simp [hr] at hr'
  · exact (interruptSequence_control vector_nmi e).irqPending.trans hirq
  · simp [hi, hn] at h
  · have hu := closed_irqPending.fetch hirq hf
    rcases closed_irqPending.exec hu he with hv | ⟨-, rfl⟩ | ⟨-, rfl⟩
    · exact hv
    · exact hu
    · exact hu

/-- Settles O45: neither the CPU step that does not service it nor the bus tick clears the latch. -/
theorem latchedIrqStays : Obligations.LatchedIrqStays := by
  intro s t hq hr hirq h e
  obtain ⟨u, v, hu, hv, rfl⟩ := step_next e
  cases (performDue_quiet hq).symm.trans hu
  have hirq' : v.irqPending = true := by
    rcases cpuStep_next hv with ⟨-, -, rfl⟩ | ⟨-, -, -, rfl⟩ | ⟨-, -, -, rfl⟩ | ⟨hp, hh, -, w, hw, rfl⟩
    · exact hirq
    · exact hirq
    · exact hirq
    · show w.irqPending = true
      refine serviceBoundary_irqPending (s := (s.setHostInput s.hostInput.tail).setWaiting false) hr hirq ?_ hw
      rcases h with hi | hpos | hn | hhalted
      · exact .inl hi
      · exact absurd hp (Nat.ne_of_gt hpos)
      · exact .inr hn
      · exact absurd (hh hhalted) (by simp [hr])
  rw [busTick_eq]
  simp [hirq']

end Sys2Proof.Machine
end

section
/-! Obligations O50, O51, O53 and O60: the VIA's timers over many ticks, the rest of the ACIA's registers, and the host's actions,
60_exceptions.md sections 9 and 10, 10_state.md section 10. -/

namespace Sys2Proof.Machine

/-! ## Timers over many ticks -/

/-- No tick changes what the timers are set up with (60_exceptions.md R318). -/
theorem iterate_tick_setup (d : Via) (k : Nat) :
    (Via.tick^[k] d).acr = d.acr ∧ (Via.tick^[k] d).t1lH = d.t1lH ∧ (Via.tick^[k] d).t1lL = d.t1lL := by
  induction k with
  | zero => exact ⟨rfl, rfl, rfl⟩
  | succ k ih =>
    rw [Function.iterate_succ_apply', Via.tick_frame]
    exact ih

theorem succ_mod_eq (k : Nat) {n : Nat} (hn : 1 ≤ n) : (k + 1) % n = if k % n + 1 = n then 0 else k % n + 1 := by
  have hr := Nat.mod_lt k hn
  rw [← Nat.mod_add_mod]
  split
  · next h => rw [h, Nat.mod_self]
  · next h => exact Nat.mod_eq_of_lt (by omega)

/-- Timer 1 in free-run mode, its counter and its flag (60_exceptions.md R319). -/
theorem iterate_tick_freeRun {d : Via} {n : Nat} (hn : 1 ≤ n) (hlatch : d.t1lH.toNat * 256 + d.t1lL.toNat = n)
    (hstart : d.t1c.toNat = n) (hmode : d.acr.getLsbD 6 = true) (k : Nat) :
    (Via.tick^[k] d).t1c.toNat = n - k % n ∧
    (Via.tick^[k] d).ifr.getLsbD 6 = (d.ifr.getLsbD 6 || decide (n ≤ k)) := by
  induction k with
  | zero => simp [hstart, Nat.ne_of_gt hn]
  | succ k ih =>
    obtain ⟨hcount, hflag⟩ := ih
    obtain ⟨hacr, hhigh, hlow⟩ := iterate_tick_setup d k
    obtain ⟨ht1c, -, hflag', -⟩ := viaTick (Via.tick^[k] d)
    have hr := Nat.mod_lt k hn
    rw [Function.iterate_succ_apply', ht1c, hflag', hflag, hcount, hacr, hhigh, hlow, hlatch, if_pos hmode, succ_mod_eq k hn]
    refine ⟨by split <;> split <;> omega, ?_⟩
    rw [Bool.or_assoc, ← Bool.decide_or]
    refine congrArg _ (decide_eq_decide.2 ?_)
    have hle : k % n + 1 = n → n ≤ k + 1 := fun h => h ▸ Nat.succ_le_succ (Nat.mod_le k n)
    have hlast : n ≤ k + 1 → ¬ n ≤ k → n - k % n = 1 := fun h h' => by
      rw [Nat.mod_eq_of_lt (by omega)]
      omega
    by_cases h : n ≤ k
    · simp [h, Nat.le_succ_of_le h]
    · constructor
      · rintro (h' | h')
        · exact absurd h' h
        · exact hle (by omega)
      · exact fun h' => .inr (hlast h' h)

theorem clearIfr_bit6 (d : Via) : (d.clearIfr 0x40).ifr.getLsbD 6 = false ∧ (d.clearIfr 0x40).t1c = d.t1c := by
  simp [Via.clearIfr]

/-- Settles O50. -/
theorem timer1FreeRunPeriod : Obligations.Timer1FreeRunPeriod := by
  intro d n k hn hlatch hstart hmode
  obtain ⟨hcount, hflag⟩ := iterate_tick_freeRun hn hlatch hstart hmode k
  refine ⟨hcount, hflag, ?_⟩
  obtain ⟨hclear, ht1c⟩ := clearIfr_bit6 (Via.tick^[k] d)
  obtain ⟨-, -, hflag', -⟩ := viaTick ((Via.tick^[k] d).clearIfr 0x40)
  have hr := Nat.mod_lt k hn
  rw [hflag', hclear, ht1c, hcount, Bool.false_or, succ_mod_eq k hn, decide_eq_decide]
  split <;> omega

/-- A timer that counts down to 0 and then stays there sets its flag as its counter goes from 1 to 0 (60_exceptions.md R318). -/
theorem oneShot_of_tick {count : Nat → Nat} {flag : Nat → Bool} {n : Nat} (hn : 1 ≤ n) (hstart : count 0 = n)
    (hcount : ∀ k, count (k + 1) = count k - 1) (hflag : ∀ k, flag (k + 1) = (flag k || decide (count k = 1))) (k : Nat) :
    count k = n - k ∧ flag k = (flag 0 || decide (n ≤ k)) := by
  induction k with
  | zero => simp [hstart, Nat.ne_of_gt hn]
  | succ k ih =>
    obtain ⟨ihcount, ihflag⟩ := ih
    refine ⟨by rw [hcount, ihcount, Nat.sub_sub], ?_⟩
    rw [hflag, ihflag, ihcount, Bool.or_assoc, ← Bool.decide_or]
    exact congrArg _ (decide_eq_decide.2 (by omega))

/-- Settles O51: both timers as one-shots, and timer 2 while it is frozen. -/
theorem oneShotTimers : Obligations.OneShotTimers := by
  intro d k
  refine ⟨fun hmode hn => ?_, fun hmode hn => ?_, fun hmode => ?_⟩
  · refine oneShot_of_tick (count := fun j => (Via.tick^[j] d).t1c.toNat)
      (flag := fun j => (Via.tick^[j] d).ifr.getLsbD 6) hn rfl (fun j => ?_) (fun j => ?_) k
    · obtain ⟨hacr, -, -⟩ := iterate_tick_setup d j
      obtain ⟨ht1c, -⟩ := viaTick (Via.tick^[j] d)
      simp only [Function.iterate_succ_apply', ht1c, hacr, hmode]
      split <;> simp_all
    · obtain ⟨-, -, hflag, -⟩ := viaTick (Via.tick^[j] d)
      simp only [Function.iterate_succ_apply', hflag]
  · refine oneShot_of_tick (count := fun j => (Via.tick^[j] d).t2c.toNat)
      (flag := fun j => (Via.tick^[j] d).ifr.getLsbD 5) hn rfl (fun j => ?_) (fun j => ?_) k
    · obtain ⟨hacr, -, -⟩ := iterate_tick_setup d j
      obtain ⟨-, ht2c, -⟩ := viaTick (Via.tick^[j] d)
      simp only [Function.iterate_succ_apply', ht2c, hacr, hmode, Bool.false_eq_true, if_false]
    · obtain ⟨hacr, -, -⟩ := iterate_tick_setup d j
      obtain ⟨-, -, -, hflag, -⟩ := viaTick (Via.tick^[j] d)
      simp only [Function.iterate_succ_apply', hflag, hacr, hmode, Bool.not_false, Bool.and_true]
  · induction k with
    | zero => exact ⟨rfl, rfl⟩
    | succ k ih =>
      obtain ⟨hacr, -, -⟩ := iterate_tick_setup d k
      obtain ⟨-, ht2c, -, hflag, -⟩ := viaTick (Via.tick^[k] d)
      rw [hacr, hmode] at ht2c hflag
      rw [Function.iterate_succ_apply', hflag]
      exact ⟨BitVec.eq_of_toNat_eq (by rw [ht2c, if_pos rfl, ih.1]), by simpa using ih.2⟩

/-! ## The ACIA's registers -/

theorem deviceAt_aciaReg {c : Config} (h : c.aciaPresent = true) (r : AciaReg) : deviceAt c r.addr = some .acia :=
  deviceAt_acia h (by cases r <;> decide)

theorem busRead_aciaReg {s : State} (h : s.config.aciaPresent = true) (r : AciaReg) :
    busRead r.addr s = .ok ((s.acia.read s.config r).1, s.setAcia (s.acia.read s.config r).2) := by
  rw [busRead_acia (deviceAt_aciaReg h r), AciaReg.ofAddr_addr]

theorem busWrite_aciaReg {s : State} (h : s.config.aciaPresent = true) (r : AciaReg) (v : Byte) :
    busWrite r.addr v s = .ok (s.setAcia (s.acia.write s.config r v)) := by
  simp [busWrite, deviceAt_aciaReg h, AciaReg.ofAddr_addr]

/-- The status byte: as stored, its bit 7 by the parameter (60_exceptions.md R323, decision D16). -/
theorem Acia.read_status (c : Config) (d : Acia) :
    (d.read c .status).2 = d ∧ (∀ k < 7, (d.read c .status).1.getLsbD k = d.status.getLsbD k) ∧
    (d.read c .status).1.getLsbD 7 = if c.aciaStatusBit7 = .mirrorIrq then d.hasIrq else d.status.getLsbD 7 := by
  have hlow : ∀ k < 7, (0x7F : Byte).getLsbD k = true ∧ (0x80 : Byte).getLsbD k = false := by decide
  cases h : c.aciaStatusBit7 with
  | stored => simp [Acia.read, h]
  | mirrorIrq =>
    simp only [Acia.read, h, if_true, true_and]
    refine ⟨fun k hk => ?_, ?_⟩
    · obtain ⟨hmask, htop⟩ := hlow k hk
      rw [BitVec.getLsbD_or, BitVec.getLsbD_and, hmask, Bool.and_true]
      cases d.hasIrq with
      | false => simp
      | true => exact (congrArg _ htop).trans (Bool.or_false _)
    · cases d.hasIrq <;> simp

/-- Settles O53, register by register. -/
theorem aciaRegisters : Obligations.AciaRegisters := by
  intro v s h
  obtain ⟨hstate, hlow, hbit7⟩ := s.acia.read_status s.config
  refine ⟨busWrite_aciaReg h .data v, busWrite_aciaReg h .status v, busWrite_aciaReg h .command v,
    busWrite_aciaReg h .control v, ⟨_, ?_, hlow, hbit7⟩, ?_, ?_⟩
  · exact (busRead_aciaReg h .status).trans (by rw [hstate]; rfl)
  · refine (busRead_aciaReg h .command).trans ?_
    cases hr : s.config.aciaCmdctlReadback <;> simp [Acia.read, hr, State.setAcia]
  · refine (busRead_aciaReg h .control).trans ?_
    cases hr : s.config.aciaCmdctlReadback <;> simp [Acia.read, hr, State.setAcia]

/-! ## The host's actions -/

/-- The host drives the pins that the direction register leaves as inputs (10_state.md R38). -/
theorem getLsbD_portInput (out dir v : Byte) (k : Nat) :
    ((out &&& dir) ||| (v &&& ~~~dir)).getLsbD k = if dir.getLsbD k then out.getLsbD k else v.getLsbD k := by
  rw [BitVec.or_comm]
  exact getLsbD_maskedWrite v dir out k

/-- Settles O60: each action is its definition; the due ones are performed first. -/
theorem resetAndHostActions : Obligations.ResetAndHostActions := by
  refine ⟨rfl, fun s v bytes images => ⟨rfl, rfl, rfl, ?_, ?_, ⟨_, rfl, getLsbD_portInput _ _ v⟩,
    ⟨_, rfl, getLsbD_portInput _ _ v⟩, fun h => ?_, fun h => ?_, ?_⟩⟩
  · rw [HostAction.perform, State.setNmiLine, Bool.not_false, Bool.and_true]
    rfl
  · rw [HostAction.perform, State.setNmiLine, Bool.not_true, Bool.and_false, Bool.or_false]
    rfl
  · rw [HostAction.perform, if_pos h]
    rfl
  · rw [HostAction.perform, if_neg (by simp [h])]
  · obtain ⟨u, hu⟩ := performDue_ok s
    exact ⟨u, (performDue_eq s).symm.trans hu, hu, step_eq hu⟩

end Sys2Proof.Machine
end
